-- ==== Sys2Proof/Word.lean ====
section
/-! DEFINITION. The word types of the MBF (spec 00_scope.md R8, R9): bytes, 16-bit fields, 32-bit registers, window
offsets and byte strings. Everything is unsigned (R8). -/

namespace Sys2Proof

/-- One byte. -/
abbrev Byte := BitVec 8

/-- A 16-bit field: a command code, a length, a debug unit. -/
abbrev Half := BitVec 16

/-- A 32-bit register or command word. -/
abbrev Word := BitVec 32

/-- A byte offset of the 8 KiB host window, 0x0000 to 0x1FFF (20_memory.md R60). -/
abbrev Offset := BitVec 13

/-- A byte string (00_scope.md R8). -/
abbrev Bytes := List Byte

end Sys2Proof
end

