-- ==== Sys2Proof/Syntax.lean ====
section
/-! DEFINITION. The syntax of the MBF: the eight commands (30_encoding.md R92), the host's accesses to the window
(20_memory.md R60), the host program lines (30_encoding.md R97, R98), the Transport's answers (20_memory.md R76, R77)
and the turns of the agents (20_memory.md R68). -/

namespace Sys2Proof

/-- The eight commands, one constructor per row of the opcode table, with the operand bits each of them uses
(30_encoding.md R92). ARG and EOT are one bit wide, so every term is a well-formed command (R91). -/
inductive Instr where
  /-- ENCODE, 0x01: segment the TX message into the packet buffer (40_frame_codec.md R130). -/
  | encode
  /-- CONSUME, 0x02: receive one message (41_reassembly.md R150). -/
  | consume (eot : Bool)
  /-- ADVANCE, 0x03: toggle the flip bit (42_sequence_controller.md R191). -/
  | advance
  /-- RESET_FLIP, 0x04: set the flip bit to ARG (42_sequence_controller.md R193). -/
  | resetFlip (arg : Bool)
  /-- REQUEST, 0x05: send and await the reply; ARG is `retry_on_retry_signal` (43_coordinator.md R210). -/
  | request (arg eot : Bool)
  /-- SEND_ONLY, 0x06: send without awaiting anything (43_coordinator.md R225). -/
  | sendOnly (eot : Bool)
  /-- CONNECT, 0x07: the session handshake (44_handshake.md R240). -/
  | connect
  /-- DISCONNECT, 0x08: release the session (44_handshake.md R260). -/
  | disconnect
  deriving DecidableEq, Repr, Inhabited

/-- The registers of the host window (20_memory.md R60). -/
inductive Reg where
  | id | ctrl | status | cmd | result | abort | txHdr | rxHdr | pktInfo | retryCount | retryLimit | readTimeout
  | hsTimeout | settle | backoff | dbgCount | hsAttempts
  deriving DecidableEq, Repr, Inhabited

/-- The width of a host access: 8, 16 or 32 bits (20_memory.md R63). -/
inductive Width where
  | byte | half | word
  deriving DecidableEq, Repr, Inhabited

/-- One host access to the window. A write narrower than 32 bits takes the low bits of its value. -/
inductive HostAccess where
  | read (width : Width) (off : Offset)
  | write (width : Width) (off : Offset) (v : Word)
  deriving DecidableEq, Repr, Inhabited

/-- One line of a host program: the action forms of 30_encoding.md R97 and the pseudo-instructions of R98. -/
inductive HostLine where
  /-- `wr REG, v` -/
  | wr (r : Reg) (v : Word)
  /-- `wrb OFF, v` -/
  | wrb (off : Offset) (v : Byte)
  /-- `rd REG` -/
  | rd (r : Reg)
  /-- `CMDNAME [flags]` -/
  | command (i : Instr)
  /-- `wait_done` -/
  | waitDone
  /-- `MSG cmd, len, b0 b1 …` -/
  | msg (cmd : Half) (payload : Bytes)
  /-- `RUN CMDNAME [flags]` -/
  | run (i : Instr)
  /-- `CURRENT` -/
  | current
  /-- `ACK_DONE` -/
  | ackDone
  /-- `CANCEL` -/
  | cancel
  deriving DecidableEq, Repr, Inhabited

/-- The Transport's answer to a Send (20_memory.md R76). -/
inductive SendAnswer where
  | ok | err
  deriving DecidableEq, Repr, Inhabited

/-- The Transport's answer to a Recv (20_memory.md R77). -/
inductive RecvAnswer where
  | pkt (b : Bytes)
  | timeout
  | ioerr
  deriving DecidableEq, Repr, Inhabited

/-- Whose turn the next step is (20_memory.md R68): the sequencer's, for one pseudocode step; the host's, for one
access; or the platform's, for a reset (70_reset_and_hazards.md R320). -/
inductive Turn where
  | sequencer
  | host (a : HostAccess)
  | reset
  deriving DecidableEq, Repr, Inhabited

end Sys2Proof
end

