-- ==== Sys2Proof/Config.lean ====
section
/-! DEFINITION. The parameters of the MBF and the free values of its environment. The fixed parameters are those of
00_scope.md R6; the OPEN parameters of R7 and the draws of 20_memory.md R68, R76, R77 are opaque constants: nothing in
Lean can evaluate them, so what is proved holds for every value of them. -/

namespace Sys2Proof.Config

/-- `MTU`, bytes per packet (00_scope.md R6). -/
abbrev mtu : Nat := 64
/-- `PAYLOAD_MAX`, payload bytes per packet (00_scope.md R6). -/
abbrev payloadMax : Nat := 62
/-- `PKT_MAX`, packets per message (00_scope.md R6). -/
abbrev pktMax : Nat := 16
/-- `SUBHDR`, bytes of the sub-header (00_scope.md R6). -/
abbrev subHdr : Nat := 4
/-- `MSG_MAX`, payload bytes per message (00_scope.md R6). -/
abbrev msgMax : Nat := 988
/-- `MARKER_ATTEMPTS` (00_scope.md R6). -/
abbrev markerAttempts : Nat := 10

/-- The OPEN parameters of 00_scope.md R7. The proof fields are R7's own conditions: the three command codes are
pairwise distinct (a configuration where two are equal is refused: it is no term of this type), and a time unit has at
least one tick. The default values exist only to show Lean that the type has a member; no definition uses them. -/
structure Params where
  /-- `P_CMD_DBG_MESSAGE` -/
  cmdDbgMessage : Half := 0
  /-- `P_CMD_ID_RETRY` -/
  cmdIdRetry : Half := 1
  /-- `P_CMD_DEVICE_STATUS` -/
  cmdDeviceStatus : Half := 2
  /-- `P_TICKS_PER_UNIT` -/
  ticksPerUnit : Word := 1
  /-- `P_SETTLE_RESET` -/
  settleReset : Word := 0
  /-- `P_READ_TIMEOUT_RESET` -/
  readTimeoutReset : Word := 0
  /-- `P_HS_TIMEOUT_RESET` -/
  hsTimeoutReset : Word := 0
  /-- `P_HOST_BASE`: the platform's choice, no rule depends on it. -/
  hostBase : Nat := 0
  /-- `P_PROBE_ADVANCES` -/
  probeAdvances : Bool := true
  /-- R7: "The three command codes must be pairwise distinct." -/
  codes_distinct :
    cmdDbgMessage ≠ cmdIdRetry ∧ cmdDbgMessage ≠ cmdDeviceStatus ∧ cmdIdRetry ≠ cmdDeviceStatus := by decide
  /-- R7: `P_TICKS_PER_UNIT` is at least 1. -/
  ticks_pos : ticksPerUnit ≠ 0 := by decide
  deriving DecidableEq, Repr, Inhabited

/-- The OPEN parameters of the machine (00_scope.md R7): free, see log 1. -/
opaque params : Params

/-- The Transport's answer to the Send that draws free value `n` (20_memory.md R76): free, see log 7. -/
opaque freeSend : Nat → SendAnswer

/-- The Transport's answer to the Recv that draws free value `n` (20_memory.md R77): free, see log 7. -/
opaque freeRecv : Nat → RecvAnswer

/-- Whose turn the step is that draws free value `n` (20_memory.md R68): free, see log 6. -/
opaque freeTurn : Nat → Turn

end Sys2Proof.Config
end

