-- ==== Sys2Proof/WellFormed.lean ====
section
/-! DEFINITION. The checks on terms that the types alone do not make. A command needs none: its operands are single bits,
and every combination of them is a command (30_encoding.md R91, R92). -/

namespace Sys2Proof

/-- A packet is exactly MTU = 64 bytes (30_encoding.md R100). -/
def Bytes.packetWf (p : Bytes) : Bool := p.length == Config.mtu

/-- A received byte string has 0 to 64 bytes (20_memory.md R77). -/
def RecvAnswer.wf : RecvAnswer → Bool
  | .pkt b => b.length ≤ Config.mtu
  | .timeout => true
  | .ioerr => true

/-- A host program line can be run without a bus error: an 8-bit write stays out of the register area, which takes
32-bit accesses only (20_memory.md R63), and the payload of a `MSG` fits TX_DATA (10_state.md R43). -/
def HostLine.wf : HostLine → Bool
  | .wrb off _ => 0x400 ≤ off.toNat
  | .msg _ payload => payload.length ≤ Config.msgMax
  | _ => true

end Sys2Proof
end

