-- ==== Sys2Proof/Decode.lean ====
section
/-! DEFINITION. The command word (30_encoding.md R90 to R96): its fields, the total decoder, the encoder, and the words
of the opcode table. -/

namespace Sys2Proof

/-- Bits 7:0, the opcode (30_encoding.md R90). -/
def opField (w : Word) : Byte := w.extractLsb' 0 8

/-- Bit 8, the one-bit argument (30_encoding.md R90). -/
def argField (w : Word) : Bool := w.getLsbD 8

/-- Bit 9, `exit_on_timeout` (30_encoding.md R90). -/
def eotField (w : Word) : Bool := w.getLsbD 9

/-- Bits 31:10, which must be 0 (30_encoding.md R90). -/
def reservedField (w : Word) : BitVec 22 := w.extractLsb' 10 22

/-- Why a word is illegal (30_encoding.md R95). -/
inductive DecodeError where
  /-- OP is 0x00 or 0x09 to 0xFF. -/
  | illegalOpcode (op : Byte)
  /-- Bits 31:10 are not all 0. -/
  | reservedBits (bits : BitVec 22)
  deriving DecidableEq, Repr

/-- The decoder, total on every 32-bit word (30_encoding.md R96). Bits a command does not use are ignored (R91). -/
def decode (w : Word) : Except DecodeError Instr :=
  if reservedField w = 0 then
    match (opField w).toNat with
    | 0x01 => .ok .encode
    | 0x02 => .ok (.consume (eotField w))
    | 0x03 => .ok .advance
    | 0x04 => .ok (.resetFlip (argField w))
    | 0x05 => .ok (.request (argField w) (eotField w))
    | 0x06 => .ok (.sendOnly (eotField w))
    | 0x07 => .ok .connect
    | 0x08 => .ok .disconnect
    | _ => .error (.illegalOpcode (opField w))
  else .error (.reservedBits (reservedField w))

/-- A command word from its fields (30_encoding.md R90), the reserved bits 0. -/
def commandWord (op : Byte) (arg eot : Bool) : Word :=
  0#22 ++ BitVec.ofBool eot ++ BitVec.ofBool arg ++ op

/-- The word a host writes to CMD for a command (30_encoding.md R92, R97), with every bit the command ignores 0. -/
def encode : Instr → Word
  | .encode => commandWord 0x01 false false
  | .consume eot => commandWord 0x02 false eot
  | .advance => commandWord 0x03 false false
  | .resetFlip arg => commandWord 0x04 arg false
  | .request arg eot => commandWord 0x05 arg eot
  | .sendOnly eot => commandWord 0x06 false eot
  | .connect => commandWord 0x07 false false
  | .disconnect => commandWord 0x08 false false

/-- The one mask of the opcode table: all bits but ARG and EOT (30_encoding.md R92). -/
def tableMask : Word := 0xFFFFFCFF

/-- The column "match" of the opcode table (30_encoding.md R92). -/
def tableMatch : Instr → Word
  | .encode => 0x00000001
  | .consume _ => 0x00000002
  | .advance => 0x00000003
  | .resetFlip _ => 0x00000004
  | .request _ _ => 0x00000005
  | .sendOnly _ => 0x00000006
  | .connect => 0x00000007
  | .disconnect => 0x00000008

/-- The instruction the decoder reads from the low `nbits` bits of `w`, every bit above them 0. A command is one 32-bit
word, written to CMD as a whole, so it has no further words. -/
def decodeTableWord (nbits w : Nat) : Option Instr :=
  (decode (BitVec.ofNat 32 (w % 2 ^ nbits))).toOption

end Sys2Proof
end

