-- ==== Sys2Proof/Machine/State.lean ====
section
/-! DEFINITION. The state of the MBF as plain data: the registers (10_state.md R21 to R42), the buffers (R43 to R46), the
hidden sequencer state (R47 to R49), and the model's own fields for the environment and the record of a run. -/

namespace Sys2Proof.Machine

/-! ## Encoded fields -/

/-- STATUS.HS_STATE, the seven handshake states (10_state.md R25); the reserved value 7 is never produced. -/
inductive HsState where
  | disconnected | flipBitReset | probeSent | auxAckAwaited | mainAckAwaited | connected | failed
  deriving DecidableEq, Repr, Inhabited

/-- STATUS.RX_STATE, the four reassembly states (10_state.md R26). -/
inductive RxState where
  | awaitFirstPacket | accumulatingContinuation | complete | failed
  deriving DecidableEq, Repr, Inhabited

/-- RESULT.ERR_CODE (60_exceptions.md R281); the reserved codes 0x12 to 0xFF are never produced. -/
inductive ErrCode where
  | none | oversizeMessage | lengthMismatch | badPacket | streamInconsistent | streamTooLong | transportError | noAck
  | noReply | retryExhausted | linkDown | handshakeAborted | probeTooLarge | notConnected | alreadyConnected
  | illegalCommand | cancelled | fatal
  deriving DecidableEq, Repr, Inhabited

/-- RESULT.OUTCOME (10_state.md R28); the values 4 to 15 are never produced. -/
inductive Reply where
  | none | message | retryRequested | noMessage
  deriving DecidableEq, Repr, Inhabited

/-- RESULT.FATAL_CAUSE (10_state.md R29); the values 4 to 15 are never produced. -/
inductive FatalCause where
  | none | rxTimeout | rxIoErr | txErr
  deriving DecidableEq, Repr, Inhabited

/-! ## The hidden sequencer state -/

/-- What `Reassemble` returns (41_reassembly.md R151). -/
inductive RxOutcome where
  | msg | retry | noMsg
  | fail (code : ErrCode)
  deriving DecidableEq, Repr, Inhabited

/-- A reply that REQUEST treats as transient busy (43_coordinator.md R215): a retry-requested reply, or a device-status
message. -/
inductive BusyReply where
  | retry | deviceStatus
  deriving DecidableEq, Repr, Inhabited

/-- A position in the pseudocode of the running command (10_state.md R47): the line the next sequencer step runs. -/
inductive Pos where
  /-- The first line of every command (30_encoding.md R93). -/
  | start
  /-- A pending `finish(err, outcome)` (60_exceptions.md R284). -/
  | finishing (err : ErrCode) (outcome : Reply)
  /-- `Advance()` of REQUEST and SEND_ONLY (43_coordinator.md R211). -/
  | advance
  /-- `RETRY_COUNT <- 0` of REQUEST (43_coordinator.md R210). -/
  | clearRetries
  /-- TransmitStream's loop head at packet `i`, with its CheckCancel (43_coordinator.md R212). -/
  | transmit (i : Nat)
  /-- `Send(PKT[i])` in progress. -/
  | sending (i : Nat)
  /-- The CheckCancel after the Send of packet `i`. -/
  | settleCheck (i : Nat)
  /-- `Wait(SETTLE)` after packet `i`. -/
  | settling (i : Nat)
  /-- TransmitStream has returned. -/
  | transmitted
  /-- The CheckCancel of the acknowledgment's RecvP (43_coordinator.md R213). -/
  | ackCheck
  /-- The acknowledgment's Recv in progress. -/
  | ackReceiving
  /-- The head of Reassemble's outer loop (41_reassembly.md R151). -/
  | streamStart
  /-- The CheckCancel of Reassemble's RecvP (41_reassembly.md R152). -/
  | rxCheck
  /-- Reassemble's Recv in progress. -/
  | receiving
  /-- `STATUS.RX_STATE <- Complete`. -/
  | streamComplete
  /-- The validation and dispatch of a complete stream (41_reassembly.md R164 to R169). -/
  | validate
  /-- `DBG_COUNT <- (DBG_COUNT + 1) mod 2^32` (41_reassembly.md R166). -/
  | debugCount
  /-- Reassemble has returned. -/
  | reassembled (o : RxOutcome)
  /-- The transient-busy part of REQUEST's loop (43_coordinator.md R217, R218). -/
  | busy (r : BusyReply)
  /-- The CheckCancel before `Wait(BACKOFF)` of REQUEST. -/
  | backoffCheck
  /-- `Wait(BACKOFF)` of REQUEST. -/
  | backingOff
  /-- `RETRY_COUNT <- min(RETRY_COUNT + 1, 0xFFFFFFFF)`. -/
  | countRetry
  /-- CONNECT: `STATUS.HS_STATE <- Disconnected` (44_handshake.md R240). -/
  | enterHandshake
  /-- The CheckCancel before a marker attempt (44_handshake.md R243). -/
  | markerCheck
  /-- `HS_ATTEMPTS <- HS_ATTEMPTS + 1`. -/
  | markerCount
  /-- `Send(MARKER)` in progress. -/
  | markerSending
  /-- The CheckCancel before the backoff of a failed marker attempt. -/
  | markerBackoffCheck
  /-- `Wait(BACKOFF)` after a failed marker attempt. -/
  | markerBackingOff
  /-- The CheckCancel after a successful marker. -/
  | markerSettleCheck
  /-- `Wait(SETTLE)` after a successful marker. -/
  | markerSettling
  /-- `STATUS.FLIP <- 0` (44_handshake.md R244). -/
  | flipReset
  /-- `STATUS.HS_STATE <- FlipBitReset`. -/
  | enterFlipBitReset
  /-- The encoding of the probe and `StorePkt(1, P)` (44_handshake.md R245). -/
  | probeStore
  /-- `REF <- P[0]` (44_handshake.md R248). -/
  | probeRef
  /-- `if P_PROBE_ADVANCES: Advance()`. -/
  | probeAdvance
  /-- The CheckCancel before the probe's Send. -/
  | probeCheck
  /-- `Send(P[0])` in progress (44_handshake.md R246). -/
  | probeSending
  /-- The CheckCancel after the probe's Send. -/
  | probeSettleCheck
  /-- `Wait(SETTLE)` after the probe. -/
  | probeSettling
  /-- `STATUS.HS_STATE <- ProbeSent`. -/
  | enterProbeSent
  /-- `STATUS.HS_STATE <- AuxAckAwaited` (44_handshake.md R249). -/
  | enterAuxAck
  /-- AwaitEcho's CheckCancel in AuxAckAwaited. -/
  | auxCheck
  /-- AwaitEcho's Recv in progress in AuxAckAwaited. -/
  | auxReceiving
  /-- `REF[0] <- REF[0] & 0xBF` (44_handshake.md R251). -/
  | clearAckFlag
  /-- `STATUS.HS_STATE <- MainAckAwaited` (44_handshake.md R252). -/
  | enterMainAck
  /-- AwaitEcho's CheckCancel in MainAckAwaited. -/
  | mainCheck
  /-- AwaitEcho's Recv in progress in MainAckAwaited. -/
  | mainReceiving
  /-- `STATUS.CONNECTED <- 1` and `STATUS.HS_STATE <- Connected` (44_handshake.md R253). -/
  | enterConnected
  /-- `TReset()` of DISCONNECT (44_handshake.md R260). -/
  | transportReset
  /-- `STATUS.CONNECTED <- 0` and `STATUS.HS_STATE <- Disconnected`. -/
  | leaveConnected
  /-- `STATUS.RX_STATE <- AwaitFirstPacket` of DISCONNECT. -/
  | clearRxState
  deriving DecidableEq, Repr, Inhabited

/-- SEQ (10_state.md R47): IDLE, or the accepted command word and the position in its pseudocode. -/
inductive Seq where
  | idle
  | running (w : Word) (pos : Pos)
  deriving DecidableEq, Repr, Inhabited

/-- The reassembly scratch (10_state.md R48). -/
structure Scratch where
  /-- ACC, the accumulated data bytes. -/
  acc : Bytes
  /-- No packet of this stream has been accepted yet. -/
  first : Bool
  /-- The declared payload lengths so far. -/
  sum : Nat
  /-- The packets of this stream so far. -/
  k : Nat
  /-- The previous packet's index. -/
  prevIdx : BitVec 4
  /-- The first packet's total. -/
  tot0 : BitVec 4
  /-- The sub-header's command. -/
  command : Half
  /-- The sub-header's length. -/
  length : Half
  deriving DecidableEq, Repr, Inhabited

/-! ## The record of a run -/

/-- An event of 70_reset_and_hazards.md R341, with the Transport's draw. A Send or Recv whose answer is `none` was cut
short by a reset (R320). -/
inductive Event where
  | send (p : Bytes) (answer : Option SendAnswer)
  | recv (t : Word) (answer : Option RecvAnswer)
  | wait (t : Word)
  | debugLine (units : List Half)
  | tDispose
  | tReset
  deriving DecidableEq, Repr, Inhabited

/-- A Transport call in progress (20_memory.md R75). -/
inductive Call where
  | send (p : Bytes)
  | recv (t : Word)
  deriving DecidableEq, Repr, Inhabited

/-- The value one host read returned. -/
structure BusRead where
  width : Width
  off : Offset
  value : Word
  deriving DecidableEq, Repr, Inhabited

/-! ## Memory -/

/-- The buffers of the host window: (window offset, byte) pairs. An offset that is not listed reads 0x00, the reset value
of every buffer byte (10_state.md R43 to R46). -/
abbrev Memory := List Host.Cell

/-- The canonical form: offsets strictly rising, and no listed byte equal to what an unlisted one reads as. -/
abbrev Memory.wf (m : Memory) : Prop :=
  m.Pairwise (fun a b => a.1 < b.1) ∧ ∀ c ∈ m, c.2 ≠ 0#8

/-! ## The state -/

/-- The state of the machine. ID, CMD, ABORT and BACKOFF have no storage (10_state.md R21, R30, R31, R40), and
STATUS.BUSY is SEQ ≠ IDLE (R47). -/
structure State where
  /-- CTRL.ACK_EN (10_state.md R22). -/
  ackEn : Bool
  /-- CTRL.STRICT (10_state.md R22). -/
  strict : Bool
  /-- CTRL.IE_DONE (10_state.md R22). -/
  ieDone : Bool
  /-- CTRL.IE_FATAL (10_state.md R22). -/
  ieFatal : Bool
  /-- STATUS.DONE (10_state.md R24). -/
  done : Bool
  /-- STATUS.CONNECTED (10_state.md R24). -/
  connected : Bool
  /-- STATUS.FLIP (10_state.md R24). -/
  flip : Bool
  /-- STATUS.FATAL (10_state.md R24). -/
  fatal : Bool
  /-- STATUS.OVR (10_state.md R24). -/
  ovr : Bool
  /-- STATUS.HS_STATE (10_state.md R25). -/
  hsState : HsState
  /-- STATUS.RX_STATE (10_state.md R26). -/
  rxState : RxState
  /-- RESULT.ERR_CODE (10_state.md R27). -/
  errCode : ErrCode
  /-- RESULT.OUTCOME (10_state.md R28). -/
  outcome : Reply
  /-- RESULT.FATAL_CAUSE (10_state.md R29). -/
  fatalCause : FatalCause
  /-- RESULT.LAST_OP (10_state.md R27). -/
  lastOp : Byte
  /-- TX_HDR (10_state.md R32). -/
  txHdr : Word
  /-- RX_HDR (10_state.md R33). -/
  rxHdr : Word
  /-- PKT_INFO.PKT_COUNT (10_state.md R34). -/
  pktCount : BitVec 5
  /-- RETRY_COUNT (10_state.md R35). -/
  retryCount : Word
  /-- RETRY_LIMIT (10_state.md R36). -/
  retryLimit : Word
  /-- READ_TIMEOUT (10_state.md R37). -/
  readTimeout : Word
  /-- HS_TIMEOUT (10_state.md R38). -/
  hsTimeout : Word
  /-- SETTLE (10_state.md R39). -/
  settle : Word
  /-- DBG_COUNT (10_state.md R41). -/
  dbgCount : Word
  /-- HS_ATTEMPTS (10_state.md R42). -/
  hsAttempts : BitVec 4
  /-- TX_DATA, RX_DATA, PKT and REF (10_state.md R43 to R46), at their window offsets. -/
  mem : Memory
  /-- SEQ (10_state.md R47). -/
  seq : Seq
  /-- REQUEST's cmd0 (43_coordinator.md R216). -/
  cmd0 : Half
  /-- The reassembly scratch (10_state.md R48). -/
  scratch : Scratch
  /-- CANCEL_PEND (10_state.md R49). -/
  cancelPend : Bool
  /-- The model's own: the turns already decided, the next first; when it is empty the turn is free (log 6). -/
  turns : List Turn
  /-- The model's own: the Send answers already decided; when it is empty the answer is free (log 7). -/
  sendAnswers : List SendAnswer
  /-- The model's own: the Recv answers already decided; when it is empty the answer is free (log 7). -/
  recvAnswers : List RecvAnswer
  /-- The model's own: how many free values have been drawn (log 7). -/
  draws : Nat
  /-- The model's own: the events so far, the oldest first (70_reset_and_hazards.md R341, log 8). -/
  trace : List Event
  /-- The model's own: what the host's reads returned so far, the oldest first (log 8). -/
  busReads : List BusRead
  deriving DecidableEq, Repr

/-- Which clean-up a CheckCancel does (60_exceptions.md R301). -/
inductive CancelScope where
  | plain
  /-- The running command is CONNECT. -/
  | handshake
  /-- A Reassemble is running. -/
  | reassembly
  deriving DecidableEq, Repr, Inhabited

/-- Why a step can stop with a fault. -/
inductive Fault where
  /-- Raised by a host access that is misaligned, or narrower than 32 bits in the register area (20_memory.md R64): "The
  model treats it as a fault of the host program". Safe: the spec asks for it. -/
  | busError
  /-- Raised by a meaning when SEQ is not at a position of its command's pseudocode. Safe: no step reaches such a state
  (10_state.md R47, log 15). -/
  | outOfSequence
  deriving DecidableEq, Repr

/-- Why a step can be refused. -/
inductive Refusal where
  /-- Raised by exec for an instruction without a meaning. Safe: the run stops. No instruction of this model uses it. -/
  | notModelled (mnemonic : String)
  deriving DecidableEq, Repr

/-- What a meaning answers. -/
abbrev Result := Host.Outcome State Fault Refusal

/-- The scratch before any reassembly. 10_state.md R48 leaves it unspecified and no rule reads it: DESIGN CHOICE, log 12. -/
def Scratch.reset : Scratch where
  acc := []
  first := true
  sum := 0
  k := 0
  prevIdx := 0
  tot0 := 0
  command := 0
  length := 0

/-- The state after reset (10_state.md R52, 70_reset_and_hazards.md R320). The three timing registers take their OPEN
parameters (R7); the model's own fields are empty (log 6, 7, 8). -/
def State.reset : State where
  ackEn := false
  strict := false
  ieDone := false
  ieFatal := false
  done := false
  connected := false
  flip := false
  fatal := false
  ovr := false
  hsState := .disconnected
  rxState := .awaitFirstPacket
  errCode := .none
  outcome := .none
  fatalCause := .none
  lastOp := 0
  txHdr := 0
  rxHdr := 0
  pktCount := 0
  retryCount := 0
  retryLimit := 0
  readTimeout := Config.params.readTimeoutReset
  hsTimeout := Config.params.hsTimeoutReset
  settle := Config.params.settleReset
  dbgCount := 0
  hsAttempts := 0
  mem := []
  seq := .idle
  cmd0 := 0
  scratch := Scratch.reset
  cancelPend := false
  turns := []
  sendAnswers := []
  recvAnswers := []
  draws := 0
  trace := []
  busReads := []

end Sys2Proof.Machine
end

