-- ==== Sys2Proof/Machine/Bits.lean ====
section
/-! DEFINITION. Byte order and bit fields: the little-endian helpers (00_scope.md R9, 30_encoding.md R106) and the bytes
of the wire packet (30_encoding.md R100 to R107). -/

namespace Sys2Proof.Machine

/-- `zeros(k)` (00_scope.md R8). -/
def zeros (k : Nat) : Bytes := List.replicate k 0#8

/-- `bs` cut or filled with zeros to exactly `n` bytes. -/
def padTo (n : Nat) (bs : Bytes) : Bytes := (bs ++ zeros n).take n

/-- `le16(v)`, the low byte first (00_scope.md R9). -/
def le16 (v : Half) : Bytes := [v.extractLsb' 0 8, v.extractLsb' 8 8]

/-- `LE16(s, i)` (00_scope.md R9). -/
def leHalf (s : Bytes) (i : Nat) : Half := s.getD (i + 1) 0 ++ s.getD i 0

/-- The value of a byte string read little-endian (20_memory.md R62). -/
def leNat : Bytes → Nat
  | [] => 0
  | b :: bs => b.toNat + 256 * leNat bs

/-- The low `n` bytes of a bus value, the low byte first (20_memory.md R62). -/
def leBytes (n : Nat) (v : Word) : Bytes := (List.range n).map fun i => v.extractLsb' (8 * i) 8

/-- The control byte `{FLIP, ACK, PLEN[5:0]}` (30_encoding.md R101). -/
def controlByte (flip ack : Bool) (plen : Nat) : Byte :=
  BitVec.ofBool flip ++ BitVec.ofBool ack ++ BitVec.ofNat 6 plen

/-- PLEN of a control byte (30_encoding.md R101). -/
def plenOf (b : Byte) : Nat := (b.extractLsb' 0 6).toNat

/-- The index byte `IDX<<4 | TOT` (30_encoding.md R102). -/
def indexByte (idx tot : Nat) : Byte := BitVec.ofNat 4 idx ++ BitVec.ofNat 4 tot

/-- IDX of an index byte (30_encoding.md R102). -/
def idxOf (b : Byte) : BitVec 4 := b.extractLsb' 4 4

/-- TOT of an index byte (30_encoding.md R102). -/
def totOf (b : Byte) : BitVec 4 := b.extractLsb' 0 4

/-- The marker packet: `0xFF, 0xFF` and 62 bytes of 0x00 (30_encoding.md R107). -/
def marker : Bytes := 0xFF#8 :: 0xFF#8 :: zeros 62

/-- The ack-request bit of a control byte cleared: `b & 0xBF` (44_handshake.md R251). -/
def clearAck (b : Byte) : Byte := b &&& 0xBF#8

end Sys2Proof.Machine
end

