-- ==== Sys2Proof/Machine/Ops.lean ====
section
/-! DEFINITION. The named operations over the memory and the registers: reading and writing buffer bytes, the Transport's
draws, the recorded events, and the ways a command ends: finish, fatal entry and cancellation (60_exceptions.md). -/

namespace Sys2Proof.Machine

/-! ## The buffers -/

/-- The first offset of TX_DATA (10_state.md R43). -/
def txBase : Nat := 0x400
/-- The first offset of RX_DATA (10_state.md R44). -/
def rxBase : Nat := 0x800
/-- The first offset of PKT (10_state.md R45). -/
def pktBase : Nat := 0x1000
/-- The first offset of REF (10_state.md R46). -/
def refBase : Nat := 0x1400

/-- The offset lies in TX_DATA, 0x400 to 0x7DB. -/
def inTx (a : Nat) : Bool := txBase ≤ a && a < txBase + Config.msgMax
/-- The offset lies in RX_DATA, 0x800 to 0xBDB. -/
def inRx (a : Nat) : Bool := rxBase ≤ a && a < rxBase + Config.msgMax
/-- The offset lies in PKT, 0x1000 to 0x13FF. -/
def inPkt (a : Nat) : Bool := pktBase ≤ a && a < pktBase + Config.pktMax * Config.mtu
/-- The offset lies in REF, 0x1400 to 0x143F. -/
def inRef (a : Nat) : Bool := refBase ≤ a && a < refBase + Config.mtu
/-- The offset lies in one of the four buffers (20_memory.md R60). -/
def inBuffer (a : Nat) : Bool := inTx a || inRx a || inPkt a || inRef a

/-- The byte at an offset; an unlisted one reads 0x00 (10_state.md R43 to R46). -/
def Memory.read (m : Memory) (a : Nat) : Byte := (m.lookup a).getD 0

/-- `n` bytes at consecutive offsets. -/
def Memory.readRange (m : Memory) (base n : Nat) : Bytes := (List.range n).map fun i => m.read (base + i)

/-- The cells of bytes at consecutive offsets, less those that an unlisted offset reads as. -/
def Memory.cells : Nat → Bytes → Memory
  | _, [] => []
  | base, b :: bs => if b = 0 then Memory.cells (base + 1) bs else (base, b) :: Memory.cells (base + 1) bs

/-- The one write: bytes stored at consecutive offsets, in canonical form. -/
def Memory.writeRange (m : Memory) (base : Nat) (bs : Bytes) : Memory :=
  m.filter (fun c => decide (c.1 < base)) ++ Memory.cells base bs ++
    m.filter (fun c => decide (base + bs.length ≤ c.1))

/-! ## The sequencer -/

/-- SEQ moved to a position of the running command (10_state.md R47). -/
def Seq.goto (pos : Pos) : Seq → Seq
  | .idle => .idle
  | .running w _ => .running w pos

/-- The accepted command word (60_exceptions.md R284); 0 when no command runs. -/
def Seq.word : Seq → Word
  | .idle => 0
  | .running w _ => w

/-- The position in the running command. -/
def Seq.pos? : Seq → Option Pos
  | .idle => none
  | .running _ pos => some pos

/-- The command goes on at `pos`. -/
def State.goto (pos : Pos) (s : State) : State := { s with seq := s.seq.goto pos }

/-! ## Ending a command -/

/-- `finish(err, outcome)`, one atomic step (60_exceptions.md R284). -/
def State.finish (err : ErrCode) (outcome : Reply) (s : State) : State :=
  { s with
    errCode := err
    outcome := outcome
    fatalCause := .none
    lastOp := opField s.seq.word
    cancelPend := false
    done := true
    seq := .idle }

/-- `raise Fatal(cause)`, one atomic step (60_exceptions.md R287). -/
def State.raiseFatal (cause : FatalCause) (s : State) : State :=
  { s with
    errCode := .fatal
    outcome := .none
    fatalCause := cause
    lastOp := opField s.seq.word
    fatal := true
    connected := false
    hsState := .disconnected
    rxState := .awaitFirstPacket
    cancelPend := false
    done := true
    seq := .idle }

/-! ## The Transport -/

/-- An event is recorded (70_reset_and_hazards.md R341). -/
def State.record (e : Event) (s : State) : State := { s with trace := s.trace ++ [e] }

/-- The Transport's answer to a Send: the next one already decided, else a free value (20_memory.md R76, log 7). -/
def State.sendAnswer (s : State) : SendAnswer := s.sendAnswers.headD (Config.freeSend s.draws)

/-- A received string has at most 64 bytes (20_memory.md R77). -/
def RecvAnswer.clip : RecvAnswer → RecvAnswer
  | .pkt b => .pkt (b.take Config.mtu)
  | .timeout => .timeout
  | .ioerr => .ioerr

/-- The Transport's answer to a Recv: the next one already decided, else a free value (20_memory.md R77, log 7). -/
def State.recvAnswer (s : State) : RecvAnswer := RecvAnswer.clip (s.recvAnswers.headD (Config.freeRecv s.draws))

/-- `Send(p)` has been answered: the answer is used up and the event recorded. -/
def State.sent (p : Bytes) (s : State) : State :=
  { s with
    sendAnswers := s.sendAnswers.tail
    draws := if s.sendAnswers.isEmpty then s.draws + 1 else s.draws
    trace := s.trace ++ [.send p (some s.sendAnswer)] }

/-- `Recv(t)` has been answered: the answer is used up and the event recorded. -/
def State.received (t : Word) (s : State) : State :=
  { s with
    recvAnswers := s.recvAnswers.tail
    draws := if s.recvAnswers.isEmpty then s.draws + 1 else s.draws
    trace := s.trace ++ [.recv t (some s.recvAnswer)] }

/-- `Wait(t)`: an event with no effect on state (20_memory.md R80). -/
def State.wait (t : Word) (s : State) : State := s.record (.wait t)

/-! ## Register updates of more than one command -/

/-- `Advance()` (42_sequence_controller.md R192). -/
def State.advanceFlip (s : State) : State := { s with flip := !s.flip }

/-- `STATUS.HS_STATE <- h`. -/
def State.setHs (h : HsState) (s : State) : State := { s with hsState := h }

/-- `STATUS.RX_STATE <- r`. -/
def State.setRx (r : RxState) (s : State) : State := { s with rxState := r }

/-! ## Cancellation -/

/-- A pending cancellation seen at a cancel point (60_exceptions.md R301): the clean-up line of its scope, if it has one,
and then `finish(CANCELLED, NONE)`, which is a step of its own after a clean-up line. -/
def State.cancel (scope : CancelScope) (s : State) : State :=
  match scope with
  | .plain => s.finish .cancelled .none
  | .handshake => (s.setHs .failed).goto (.finishing .cancelled .none)
  | .reassembly => (s.setRx .awaitFirstPacket).goto (.finishing .cancelled .none)

/-- `CheckCancel()` (60_exceptions.md R301): a pending cancellation ends the command, else it goes on at `next`. -/
def State.checkCancel (scope : CancelScope) (next : Pos) (s : State) : State :=
  if s.cancelPend then s.cancel scope else s.goto next

/-! ## Buffers that more than one command stores -/

/-- `StorePkt(n, P)` of the packets `ps` (40_frame_codec.md R136). -/
def State.storePkt (ps : List Bytes) (s : State) : State :=
  { s with
    mem := Memory.writeRange s.mem pktBase (padTo (Config.pktMax * Config.mtu) ps.flatten)
    pktCount := BitVec.ofNat 5 ps.length }

/-- `Commit(command, length, ACC)` (41_reassembly.md R169). -/
def State.commit (command length : Half) (acc : Bytes) (s : State) : State :=
  { s with
    rxHdr := length ++ command
    mem := Memory.writeRange s.mem rxBase (padTo Config.msgMax (acc.take length.toNat)) }

end Sys2Proof.Machine
end

