-- ==== Sys2Proof/Machine/Operands.lean ====
section
/-! DEFINITION. The operands of the commands: the fixed registers and buffers they read (10_state.md R50). The
configuration lock (20_memory.md R66) keeps TX_HDR, TX_DATA, CTRL and the timing registers as they were when the command
was accepted, so they are read in place (20_memory.md R70, log 23). -/

namespace Sys2Proof.Machine

/-- TX_HDR.COMMAND (10_state.md R32). -/
def State.txCommand (s : State) : Half := s.txHdr.extractLsb' 0 16

/-- TX_HDR.LENGTH (10_state.md R32). -/
def State.txLength (s : State) : Half := s.txHdr.extractLsb' 16 16

/-- TX_DATA[0..LENGTH) (10_state.md R32, R43). -/
def State.txPayload (s : State) : Bytes := Memory.readRange s.mem txBase s.txLength.toNat

/-- RX_HDR.COMMAND (10_state.md R33). -/
def State.rxCommand (s : State) : Half := s.rxHdr.extractLsb' 0 16

/-- RX_HDR.LENGTH (10_state.md R33). -/
def State.rxLength (s : State) : Half := s.rxHdr.extractLsb' 16 16

/-- RX_DATA[0..LENGTH), the payload of the last committed message (10_state.md R44). -/
def State.rxPayload (s : State) : Bytes := Memory.readRange s.mem rxBase s.rxLength.toNat

/-- PKT[i] (10_state.md R45). -/
def State.packet (s : State) (i : Nat) : Bytes :=
  Memory.readRange s.mem (pktBase + Config.mtu * i) Config.mtu

/-- REF (10_state.md R46). -/
def State.reference (s : State) : Bytes := Memory.readRange s.mem refBase Config.mtu

/-- BACKOFF, one time unit: `P_TICKS_PER_UNIT` × `BACKOFF_UNITS`, `BACKOFF_UNITS` being 1 (10_state.md R40). -/
def backoff (p : Config.Params) : Word := p.ticksPerUnit

/-- The Transport call that blocks the sequencer, if one is in progress (20_memory.md R75). -/
def State.pendingCall (s : State) : Option Call :=
  match s.seq with
  | .idle => none
  | .running _ pos =>
    match pos with
    | .sending i => some (.send (s.packet i))
    | .markerSending => some (.send marker)
    | .probeSending => some (.send (s.packet 0))
    | .ackReceiving => some (.recv s.readTimeout)
    | .receiving => some (.recv s.readTimeout)
    | .auxReceiving => some (.recv s.hsTimeout)
    | .mainReceiving => some (.recv s.hsTimeout)
    | _ => none

end Sys2Proof.Machine
end

