-- ==== Sys2Proof/Machine/Flags.lean ====
section
/-! DEFINITION. The flags and the encoded registers: BUSY, the configuration lock, IRQ, and the words of CTRL, STATUS,
RESULT, PKT_INFO and HS_ATTEMPTS (10_state.md R22 to R42). -/

namespace Sys2Proof.Machine

/-- STATUS.BUSY = (SEQ ≠ IDLE) (10_state.md R47). -/
def State.busy (s : State) : Bool :=
  match s.seq with
  | .idle => false
  | .running _ _ => true

/-- The configuration lock: BUSY = 1 or FATAL = 1 (20_memory.md R66). -/
def State.locked (s : State) : Bool := s.busy || s.fatal

/-- The interrupt output (60_exceptions.md R290). -/
def State.irq (s : State) : Bool := (s.done && s.ieDone) || (s.fatal && s.ieFatal)

/-- `current()`, the wire value of the flip bit (42_sequence_controller.md R190). -/
def State.current (s : State) : Byte := if s.flip then 0x80 else 0x00

/-- 10_state.md R25. -/
def HsState.code : HsState → BitVec 3
  | .disconnected => 0
  | .flipBitReset => 1
  | .probeSent => 2
  | .auxAckAwaited => 3
  | .mainAckAwaited => 4
  | .connected => 5
  | .failed => 6

/-- 10_state.md R26. -/
def RxState.code : RxState → BitVec 2
  | .awaitFirstPacket => 0
  | .accumulatingContinuation => 1
  | .complete => 2
  | .failed => 3

/-- 60_exceptions.md R281. -/
def ErrCode.code : ErrCode → BitVec 8
  | .none => 0x00
  | .oversizeMessage => 0x01
  | .lengthMismatch => 0x02
  | .badPacket => 0x03
  | .streamInconsistent => 0x04
  | .streamTooLong => 0x05
  | .transportError => 0x06
  | .noAck => 0x07
  | .noReply => 0x08
  | .retryExhausted => 0x09
  | .linkDown => 0x0A
  | .handshakeAborted => 0x0B
  | .probeTooLarge => 0x0C
  | .notConnected => 0x0D
  | .alreadyConnected => 0x0E
  | .illegalCommand => 0x0F
  | .cancelled => 0x10
  | .fatal => 0x11

/-- 10_state.md R28. -/
def Reply.code : Reply → BitVec 4
  | .none => 0
  | .message => 1
  | .retryRequested => 2
  | .noMessage => 3

/-- 10_state.md R29. -/
def FatalCause.code : FatalCause → BitVec 4
  | .none => 0
  | .rxTimeout => 1
  | .rxIoErr => 2
  | .txErr => 3

/-- CTRL as it reads (10_state.md R22). -/
def State.ctrlWord (s : State) : Word :=
  0#28 ++ BitVec.ofBool s.ieFatal ++ BitVec.ofBool s.ieDone ++ BitVec.ofBool s.strict ++ BitVec.ofBool s.ackEn

/-- STATUS as it reads (10_state.md R24). -/
def State.statusWord (s : State) : Word :=
  0#21 ++ s.rxState.code ++ s.hsState.code ++ BitVec.ofBool s.ovr ++ BitVec.ofBool s.fatal ++ BitVec.ofBool s.flip ++
    BitVec.ofBool s.connected ++ BitVec.ofBool s.done ++ BitVec.ofBool s.busy

/-- RESULT as it reads (10_state.md R27). -/
def State.resultWord (s : State) : Word :=
  0#8 ++ s.lastOp ++ s.fatalCause.code ++ s.outcome.code ++ s.errCode.code

/-- PKT_INFO as it reads (10_state.md R34). -/
def State.pktInfoWord (s : State) : Word := 0#27 ++ s.pktCount

/-- HS_ATTEMPTS as it reads (10_state.md R42). -/
def State.hsAttemptsWord (s : State) : Word := 0#28 ++ s.hsAttempts

end Sys2Proof.Machine
end

