-- ==== Sys2Proof/Machine/FrameCodec.lean ====
section
/-! DEFINITION. The Frame Codec: segmentation of a message into packets, and ENCODE (40_frame_codec.md). -/

namespace Sys2Proof.Machine

/-- `n = ceil((4 + len) / 62)` (40_frame_codec.md R131, R132). -/
def packetCount (len : Nat) : Nat := (Config.subHdr + len + (Config.payloadMax - 1)) / Config.payloadMax

/-- Packet `i` of `n` with the payload-area bytes `chunk` (40_frame_codec.md R131). -/
def framePacket (flip ack : Bool) (n i : Nat) (chunk : Bytes) : Bytes :=
  controlByte flip ack chunk.length :: indexByte i (n - 1) :: (chunk ++ zeros (Config.payloadMax - chunk.length))

/-- The serialized message: the sub-header, then the payload (30_encoding.md R103). -/
def serialize (cmd len : Half) (data : Bytes) : Bytes := le16 cmd ++ le16 len ++ data.take len.toNat

/-- `s[62*i .. 62*(i+1))` of a serialized message (40_frame_codec.md R131). -/
def chunkOf (s : Bytes) (i : Nat) : Bytes := (s.drop (Config.payloadMax * i)).take Config.payloadMax

/-- `EncodeStream(cmd, len, data, flip, ack)`; `none` is OVERSIZE (40_frame_codec.md R131). -/
def encodeStream (cmd len : Half) (data : Bytes) (flip ack : Bool) : Option (List Bytes) :=
  let n := packetCount len.toNat
  if Config.pktMax < n then none
  else some ((List.range n).map fun i => framePacket flip ack n i (chunkOf (serialize cmd len data) i))

/-- The stream of the TX message at the current flip bit (40_frame_codec.md R130). -/
def State.txStream (ack : Bool) (s : State) : Option (List Bytes) :=
  encodeStream s.txCommand s.txLength s.txPayload s.flip ack

/-- ENCODE (40_frame_codec.md R130). -/
def execEncode (s : State) : Result :=
  match s.seq with
  | .running _ .start =>
    match s.txStream s.ackEn with
    | none => .next (s.finish .oversizeMessage .none)
    | some ps => .next ((s.storePkt ps).goto (.finishing .none .none))
  | .running _ (.finishing err outcome) => .next (s.finish err outcome)
  | _ => .fault .outOfSequence

end Sys2Proof.Machine
end

