-- ==== Sys2Proof/Machine/Reassembly.lean ====
section
/-! DEFINITION. The Reassembly State Machine and CONSUME (41_reassembly.md). -/

namespace Sys2Proof.Machine

/-- What one received byte string does to a stream: it fails it, or is taken into the scratch, and then either ends the
stream or not. -/
inductive PacketVerdict where
  | failed (code : ErrCode)
  | accepted (sc : Scratch) (complete : Bool)
  deriving DecidableEq, Repr

/-- The first packet of a stream: its sub-header and data (41_reassembly.md R160). -/
def Scratch.takeFirst (sc : Scratch) (b : Bytes) (plen : Nat) (idx tot : BitVec 4) : Scratch :=
  { acc := (b.drop 6).take (plen - Config.subHdr)
    first := false
    sum := sc.sum + plen
    k := sc.k + 1
    prevIdx := idx
    tot0 := tot
    command := leHalf b 2
    length := leHalf b 4 }

/-- A continuation packet: its declared payload is appended (41_reassembly.md R162). -/
def Scratch.takeNext (sc : Scratch) (b : Bytes) (plen : Nat) (idx : BitVec 4) : Scratch :=
  { sc with
    acc := sc.acc ++ (b.drop 2).take plen
    sum := sc.sum + plen
    k := sc.k + 1
    prevIdx := idx }

/-- The strict stream check fails (41_reassembly.md R158). -/
def Scratch.inconsistent (sc : Scratch) (idx tot : BitVec 4) : Bool :=
  if sc.first then idx != 0 else idx.toNat != sc.prevIdx.toNat + 1 || tot != sc.tot0

/-- One received byte string: the checks in the order of 41_reassembly.md R154, then the accumulation (R160, R162) and
the completion test (R161). -/
def rxPacket (strict : Bool) (sc : Scratch) (b : Bytes) : PacketVerdict :=
  let plen := plenOf (b.getD 0 0)
  let idx := idxOf (b.getD 1 0)
  let tot := totOf (b.getD 1 0)
  if b.length < 2 then .failed .badPacket
  else if Config.payloadMax < plen then .failed .badPacket
  else if b.length < 2 + plen then .failed .badPacket
  else if sc.first && b.length < 6 then .failed .badPacket
  else if Config.pktMax < sc.k + 1 then .failed .streamTooLong
  else if strict && sc.inconsistent idx tot then .failed .streamInconsistent
  else if sc.first then .accepted (sc.takeFirst b plen idx tot) (idx == tot)
  else .accepted (sc.takeNext b plen idx) (idx == tot)

/-- The validation at completion: `len(ACC) = length` and `len(ACC) = sum - 4`, over integers (41_reassembly.md R164,
00_scope.md R10). -/
def Scratch.valid (sc : Scratch) : Bool :=
  sc.acc.length == sc.length.toNat && sc.acc.length + Config.subHdr == sc.sum

/-- The units of a debug message (41_reassembly.md R166). -/
def debugUnits (length : Half) (acc : Bytes) : List Half :=
  (List.range (length.toNat / 2)).map fun j => leHalf acc (2 * j)

/-- The head of Reassemble's outer loop: AwaitFirstPacket, and nothing accumulated (41_reassembly.md R151, R153). -/
def State.startStream (s : State) : State :=
  ({ s with
    rxState := .awaitFirstPacket
    scratch := { s.scratch with first := true, sum := 0, k := 0, acc := [] } }).goto .rxCheck

/-- A Recv failed in RecvP (41_reassembly.md R152): fatal under EOT = 1, else `soft`. -/
def State.recvFailed (eot : Bool) (cause : FatalCause) (soft : State → State) (s : State) : State :=
  if eot then s.raiseFatal cause else soft s

/-- NONE from RecvP within Reassemble (41_reassembly.md R171). -/
def State.noMessage (s : State) : State := (s.setRx .awaitFirstPacket).goto (.reassembled .noMsg)

/-- A received string is taken or fails the stream (41_reassembly.md R151). -/
def State.takePacket (b : Bytes) (s : State) : State :=
  match rxPacket s.strict s.scratch b with
  | .failed code => (s.setRx .failed).goto (.reassembled (.fail code))
  | .accepted sc complete =>
    ({ s with
      scratch := sc
      rxState := if s.scratch.first then .accumulatingContinuation else s.rxState }).goto
        (if complete then .streamComplete else .rxCheck)

/-- Reassemble's Recv is answered (41_reassembly.md R151, R152). -/
def State.receivePacket (eot : Bool) (s : State) : State :=
  match s.recvAnswer with
  | .pkt b => (s.received s.readTimeout).takePacket b
  | .timeout => (s.received s.readTimeout).recvFailed eot .rxTimeout State.noMessage
  | .ioerr => (s.received s.readTimeout).recvFailed eot .rxIoErr State.noMessage

/-- The validation and the dispatch of a complete stream (41_reassembly.md R164 to R169). -/
def State.dispatchStream (p : Config.Params) (s : State) : State :=
  if s.scratch.valid then
    if s.scratch.command = p.cmdDbgMessage then
      (s.record (.debugLine (debugUnits s.scratch.length s.scratch.acc))).goto .debugCount
    else if s.scratch.command = p.cmdIdRetry then s.goto (.reassembled .retry)
    else (s.commit s.scratch.command s.scratch.length s.scratch.acc).goto (.reassembled .msg)
  else (s.setRx .failed).goto (.reassembled (.fail .lengthMismatch))

/-- One more debug line, modulo 2^32, and the next stream (41_reassembly.md R166, R167; 10_state.md R41). -/
def State.countDebug (s : State) : State := ({ s with dbgCount := s.dbgCount + 1 }).goto .streamStart

/-- The lines of Reassemble, for the commands that run it (41_reassembly.md R151). -/
def reassembleLine (p : Config.Params) (eot : Bool) (pos : Pos) (s : State) : Result :=
  match pos with
  | .streamStart => .next s.startStream
  | .rxCheck => .next (s.checkCancel .reassembly .receiving)
  | .receiving => .next (s.receivePacket eot)
  | .streamComplete => .next ((s.setRx .complete).goto .validate)
  | .validate => .next (s.dispatchStream p)
  | .debugCount => .next s.countDebug
  | _ => .fault .outOfSequence

/-- CONSUME's end by what Reassemble returned (41_reassembly.md R150). -/
def State.endConsume (o : RxOutcome) (s : State) : State :=
  match o with
  | .msg => s.finish .none .message
  | .retry => s.finish .none .retryRequested
  | .noMsg => s.finish .none .noMessage
  | .fail code => s.finish code .none

/-- CONSUME under the parameters `p` (41_reassembly.md R150). -/
def consumeLine (p : Config.Params) (eot : Bool) (s : State) : Result :=
  match s.seq with
  | .running _ .start => .next (if s.connected then s.startStream else s.finish .notConnected .none)
  | .running _ (.reassembled o) => .next (s.endConsume o)
  | .running _ (.finishing err outcome) => .next (s.finish err outcome)
  | .running _ pos => reassembleLine p eot pos s
  | .idle => .fault .outOfSequence

/-- CONSUME (41_reassembly.md R150). -/
def execConsume (eot : Bool) (s : State) : Result := consumeLine Config.params eot s

end Sys2Proof.Machine
end

