-- ==== Sys2Proof/Machine/Coordinator.lean ====
section
/-! DEFINITION. The Request/Reply Coordinator: REQUEST and SEND_ONLY (43_coordinator.md). -/

namespace Sys2Proof.Machine

/-! ## TransmitStream -/

/-- TransmitStream's loop head: the next packet's CheckCancel, or the end of the stream (43_coordinator.md R212). -/
def State.transmitHead (i : Nat) (s : State) : State :=
  if i < s.pktCount.toNat then s.checkCancel .plain (.sending i) else s.goto .transmitted

/-- `Send(PKT[i])` is answered (43_coordinator.md R212). -/
def State.sendPacket (eot : Bool) (i : Nat) (s : State) : State :=
  match s.sendAnswer with
  | .ok => (s.sent (s.packet i)).goto (.settleCheck i)
  | .err =>
    if eot then (s.sent (s.packet i)).raiseFatal .txErr else (s.sent (s.packet i)).finish .transportError .none

/-- The lines of TransmitStream (43_coordinator.md R212). -/
def transmitLine (eot : Bool) (pos : Pos) (s : State) : Result :=
  match pos with
  | .transmit i => .next (s.transmitHead i)
  | .sending i => .next (s.sendPacket eot i)
  | .settleCheck i => .next (s.checkCancel .plain (.settling i))
  | .settling i => .next ((s.wait s.settle).goto (.transmit (i + 1)))
  | _ => .fault .outOfSequence

/-! ## REQUEST -/

/-- The first lines of REQUEST, to `StorePkt` (43_coordinator.md R210, R211). -/
def State.startRequest (s : State) : State :=
  if s.connected then
    match s.txStream s.ackEn with
    | none => s.finish .oversizeMessage .none
    | some ps => (({ s with cmd0 := s.txCommand } : State).storePkt ps).goto .advance
  else s.finish .notConnected .none

/-- The acknowledgment's Recv is answered; what it returns is discarded (43_coordinator.md R213). -/
def State.receiveAck (eot : Bool) (s : State) : State :=
  match s.recvAnswer with
  | .pkt _ => (s.received s.readTimeout).goto .streamStart
  | .timeout => (s.received s.readTimeout).recvFailed eot .rxTimeout (State.finish .noAck .noMessage)
  | .ioerr => (s.received s.readTimeout).recvFailed eot .rxIoErr (State.finish .noAck .noMessage)

/-- The committed reply is a device-status message and the command sent was not (43_coordinator.md R215 (b), R216). -/
def State.strayDeviceStatus (p : Config.Params) (s : State) : Bool :=
  s.rxCommand == p.cmdDeviceStatus && s.cmd0 != p.cmdDeviceStatus

/-- The decision on the reply (43_coordinator.md R215, R219, R220). -/
def State.decideReply (p : Config.Params) (arg : Bool) (o : RxOutcome) (s : State) : State :=
  match o with
  | .noMsg => s.finish .noReply .noMessage
  | .fail code => s.finish code .none
  | .retry => if arg then s.goto (.busy .retry) else s.finish .none .retryRequested
  | .msg => if s.strayDeviceStatus p then s.goto (.busy .deviceStatus) else s.finish .none .message

/-- RETRY_LIMIT is set and reached (43_coordinator.md R218). -/
def State.retriesExhausted (s : State) : Bool :=
  s.retryLimit != 0 && decide (s.retryLimit.toNat ≤ s.retryCount.toNat)

/-- The OUTCOME of RETRY_EXHAUSTED, that of the last reply (43_coordinator.md R218). -/
def BusyReply.outcome : BusyReply → Reply
  | .retry => .retryRequested
  | .deviceStatus => .message

/-- The retry bound (43_coordinator.md R218). -/
def State.retryOrGiveUp (r : BusyReply) (s : State) : State :=
  if s.retriesExhausted then s.finish .retryExhausted r.outcome else s.goto .backoffCheck

/-- RETRY_COUNT counts a restart, saturating, and the stored stream is sent again (43_coordinator.md R217, R218). -/
def State.countRetry (s : State) : State :=
  ({ s with retryCount := if s.retryCount = BitVec.allOnes 32 then s.retryCount else s.retryCount + 1 }).goto
    (.transmit 0)

/-- REQUEST under the parameters `p` (43_coordinator.md R210). -/
def requestLine (p : Config.Params) (arg eot : Bool) (s : State) : Result :=
  match s.seq with
  | .running _ .start => .next s.startRequest
  | .running _ .advance => .next (s.advanceFlip.goto .clearRetries)
  | .running _ .clearRetries => .next (({ s with retryCount := 0 } : State).goto (.transmit 0))
  | .running _ (.transmit i) => transmitLine eot (.transmit i) s
  | .running _ (.sending i) => transmitLine eot (.sending i) s
  | .running _ (.settleCheck i) => transmitLine eot (.settleCheck i) s
  | .running _ (.settling i) => transmitLine eot (.settling i) s
  | .running _ .transmitted => .next (s.goto (if s.ackEn then .ackCheck else .streamStart))
  | .running _ .ackCheck => .next (s.checkCancel .plain .ackReceiving)
  | .running _ .ackReceiving => .next (s.receiveAck eot)
  | .running _ (.reassembled o) => .next (s.decideReply p arg o)
  | .running _ (.busy r) => .next (s.retryOrGiveUp r)
  | .running _ .backoffCheck => .next (s.checkCancel .plain .backingOff)
  | .running _ .backingOff => .next ((s.wait (backoff p)).goto .countRetry)
  | .running _ .countRetry => .next s.countRetry
  | .running _ (.finishing err outcome) => .next (s.finish err outcome)
  | .running _ pos => reassembleLine p eot pos s
  | .idle => .fault .outOfSequence

/-- REQUEST (43_coordinator.md R210). -/
def execRequest (arg eot : Bool) (s : State) : Result := requestLine Config.params arg eot s

/-! ## SEND_ONLY -/

/-- The first lines of SEND_ONLY, to `StorePkt` (43_coordinator.md R225). -/
def State.startSendOnly (s : State) : State :=
  if s.connected then
    match s.txStream s.ackEn with
    | none => s.finish .oversizeMessage .none
    | some ps => (s.storePkt ps).goto .advance
  else s.finish .notConnected .none

/-- SEND_ONLY (43_coordinator.md R225). -/
def execSendOnly (eot : Bool) (s : State) : Result :=
  match s.seq with
  | .running _ .start => .next s.startSendOnly
  | .running _ .advance => .next (s.advanceFlip.goto (.transmit 0))
  | .running _ .transmitted => .next (s.finish .none .none)
  | .running _ pos => transmitLine eot pos s
  | .idle => .fault .outOfSequence

end Sys2Proof.Machine
end

