-- ==== Sys2Proof/Machine/Handshake.lean ====
section
/-! DEFINITION. The Session Handshake controller: CONNECT and DISCONNECT (44_handshake.md). -/

namespace Sys2Proof.Machine

/-- The longest probe payload that fits one packet (44_handshake.md R242). -/
def probeMax : Nat := 58

/-- The checks before any Transport call (44_handshake.md R241, R242). -/
def State.startConnect (s : State) : State :=
  if s.hsState = .connected then s.finish .alreadyConnected .none
  else if probeMax < s.txLength.toNat then s.finish .probeTooLarge .none
  else ({ s with hsAttempts := 0 } : State).goto .enterHandshake

/-- `Send(MARKER)` is answered (44_handshake.md R243). -/
def State.sendMarker (s : State) : State :=
  match s.sendAnswer with
  | .ok => (s.sent marker).goto .markerSettleCheck
  | .err =>
    if s.hsAttempts.toNat = Config.markerAttempts then
      ((s.sent marker).setHs .failed).goto (.finishing .linkDown .none)
    else (s.sent marker).goto .markerBackoffCheck

/-- The probe is encoded with the ack-request flag forced on and stored as the one packet (44_handshake.md R245). A
message that fits one packet is never OVERSIZE; the `none` arm only makes the function total (log 19). -/
def State.storeProbe (s : State) : State :=
  match s.txStream true with
  | none => s.finish .probeTooLarge .none
  | some ps => (s.storePkt (ps.take 1)).goto .probeRef

/-- `REF <- P[0]` (44_handshake.md R248). -/
def State.storeReference (s : State) : State :=
  { s with mem := Memory.writeRange s.mem refBase (s.packet 0) }

/-- `Send(P[0])` is answered (44_handshake.md R246). -/
def State.sendProbe (s : State) : State :=
  match s.sendAnswer with
  | .ok => (s.sent (s.packet 0)).goto .probeSettleCheck
  | .err => ((s.sent (s.packet 0)).setHs .failed).goto (.finishing .handshakeAborted .none)

/-- AwaitEcho's Recv is answered: a string equal to REF goes on at `matched`, IOERR aborts, anything else is drained and
the read repeated at `again` (44_handshake.md R249, R250, R254). -/
def State.awaitEcho (again matched : Pos) (s : State) : State :=
  match s.recvAnswer with
  | .pkt b =>
    if b = s.reference then (s.received s.hsTimeout).goto matched else (s.received s.hsTimeout).goto again
  | .timeout => (s.received s.hsTimeout).goto again
  | .ioerr => ((s.received s.hsTimeout).setHs .failed).goto (.finishing .handshakeAborted .none)

/-- `REF[0] <- REF[0] & 0xBF` (44_handshake.md R251). -/
def State.clearReferenceAck (s : State) : State :=
  { s with mem := Memory.writeRange s.mem refBase [clearAck (Memory.read s.mem refBase)] }

/-- CONNECT under the parameters `p` (44_handshake.md R240). -/
def connectLine (p : Config.Params) (s : State) : Result :=
  match s.seq with
  | .running _ .start => .next s.startConnect
  | .running _ .enterHandshake => .next ((s.setHs .disconnected).goto .markerCheck)
  | .running _ .markerCheck => .next (s.checkCancel .handshake .markerCount)
  | .running _ .markerCount => .next (({ s with hsAttempts := s.hsAttempts + 1 } : State).goto .markerSending)
  | .running _ .markerSending => .next s.sendMarker
  | .running _ .markerBackoffCheck => .next (s.checkCancel .handshake .markerBackingOff)
  | .running _ .markerBackingOff => .next ((s.wait (backoff p)).goto .markerCheck)
  | .running _ .markerSettleCheck => .next (s.checkCancel .handshake .markerSettling)
  | .running _ .markerSettling => .next ((s.wait s.settle).goto .flipReset)
  | .running _ .flipReset => .next (({ s with flip := false } : State).goto .enterFlipBitReset)
  | .running _ .enterFlipBitReset => .next ((s.setHs .flipBitReset).goto .probeStore)
  | .running _ .probeStore => .next s.storeProbe
  | .running _ .probeRef => .next (s.storeReference.goto .probeAdvance)
  | .running _ .probeAdvance => .next ((if p.probeAdvances then s.advanceFlip else s).goto .probeCheck)
  | .running _ .probeCheck => .next (s.checkCancel .handshake .probeSending)
  | .running _ .probeSending => .next s.sendProbe
  | .running _ .probeSettleCheck => .next (s.checkCancel .handshake .probeSettling)
  | .running _ .probeSettling => .next ((s.wait s.settle).goto .enterProbeSent)
  | .running _ .enterProbeSent => .next ((s.setHs .probeSent).goto .enterAuxAck)
  | .running _ .enterAuxAck => .next ((s.setHs .auxAckAwaited).goto .auxCheck)
  | .running _ .auxCheck => .next (s.checkCancel .handshake .auxReceiving)
  | .running _ .auxReceiving => .next (s.awaitEcho .auxCheck .clearAckFlag)
  | .running _ .clearAckFlag => .next (s.clearReferenceAck.goto .enterMainAck)
  | .running _ .enterMainAck => .next ((s.setHs .mainAckAwaited).goto .mainCheck)
  | .running _ .mainCheck => .next (s.checkCancel .handshake .mainReceiving)
  | .running _ .mainReceiving => .next (s.awaitEcho .mainCheck .enterConnected)
  | .running _ .enterConnected =>
    .next (({ s with connected := true, hsState := .connected } : State).goto (.finishing .none .none))
  | .running _ (.finishing err outcome) => .next (s.finish err outcome)
  | _ => .fault .outOfSequence

/-- CONNECT (44_handshake.md R240). -/
def execConnect (s : State) : Result := connectLine Config.params s

/-- DISCONNECT (44_handshake.md R260, R261). -/
def execDisconnect (s : State) : Result :=
  match s.seq with
  | .running _ .start =>
    .next (if s.connected then (s.record .tDispose).goto .transportReset else s.finish .notConnected .none)
  | .running _ .transportReset => .next ((s.record .tReset).goto .leaveConnected)
  | .running _ .leaveConnected =>
    .next (({ s with connected := false, hsState := .disconnected } : State).goto .clearRxState)
  | .running _ .clearRxState => .next ((s.setRx .awaitFirstPacket).goto (.finishing .none .none))
  | .running _ (.finishing err outcome) => .next (s.finish err outcome)
  | _ => .fault .outOfSequence

end Sys2Proof.Machine
end

