-- ==== Sys2Proof/Machine/Sequence.lean ====
section
/-! DEFINITION. The Sequence Controller: ADVANCE and RESET_FLIP (42_sequence_controller.md). -/

namespace Sys2Proof.Machine

/-- ADVANCE (42_sequence_controller.md R191). -/
def execAdvance (s : State) : Result :=
  match s.seq with
  | .running _ .start => .next (s.advanceFlip.goto (.finishing .none .none))
  | .running _ (.finishing err outcome) => .next (s.finish err outcome)
  | _ => .fault .outOfSequence

/-- RESET_FLIP (42_sequence_controller.md R193). -/
def execResetFlip (arg : Bool) (s : State) : Result :=
  match s.seq with
  | .running _ .start => .next (({ s with flip := arg } : State).goto (.finishing .none .none))
  | .running _ (.finishing err outcome) => .next (s.finish err outcome)
  | _ => .fault .outOfSequence

end Sys2Proof.Machine
end

