-- ==== Sys2Proof/Machine/Dispatch.lean ====
section
/-! DEFINITION. The dispatch: one arm per command of the opcode table (30_encoding.md R92). -/

namespace Sys2Proof.Machine

/-- The sequencer's next step in the command `i`: the line of its pseudocode at SEQ's position. -/
def exec (i : Instr) (s : State) : Host.Outcome State Fault Refusal :=
  match i with
  | .encode => Sys2Proof.Machine.execEncode s
  | .consume eot => Sys2Proof.Machine.execConsume eot s
  | .advance => Sys2Proof.Machine.execAdvance s
  | .resetFlip arg => Sys2Proof.Machine.execResetFlip arg s
  | .request arg eot => Sys2Proof.Machine.execRequest arg eot s
  | .sendOnly eot => Sys2Proof.Machine.execSendOnly eot s
  | .connect => Sys2Proof.Machine.execConnect s
  | .disconnect => Sys2Proof.Machine.execDisconnect s

end Sys2Proof.Machine
end

