-- ==== Sys2Proof/Machine/HostWindow.lean ====
section
/-! DEFINITION. The host window: the register map, the permitted accesses, reads, writes, the acceptance of a command,
and the platform's reset (20_memory.md R60 to R67, 30_encoding.md R93 to R95, 70_reset_and_hazards.md R320). -/

namespace Sys2Proof.Machine

/-- The offset of a register (20_memory.md R60). -/
def Reg.offset : Reg → Nat
  | .id => 0x000
  | .ctrl => 0x004
  | .status => 0x008
  | .cmd => 0x00C
  | .result => 0x010
  | .abort => 0x014
  | .txHdr => 0x018
  | .rxHdr => 0x01C
  | .pktInfo => 0x020
  | .retryCount => 0x024
  | .retryLimit => 0x028
  | .readTimeout => 0x02C
  | .hsTimeout => 0x030
  | .settle => 0x034
  | .backoff => 0x038
  | .dbgCount => 0x03C
  | .hsAttempts => 0x040

/-- The register at an offset, `none` at a reserved one (20_memory.md R60). -/
def regAt : Nat → Option Reg
  | 0x000 => some .id
  | 0x004 => some .ctrl
  | 0x008 => some .status
  | 0x00C => some .cmd
  | 0x010 => some .result
  | 0x014 => some .abort
  | 0x018 => some .txHdr
  | 0x01C => some .rxHdr
  | 0x020 => some .pktInfo
  | 0x024 => some .retryCount
  | 0x028 => some .retryLimit
  | 0x02C => some .readTimeout
  | 0x030 => some .hsTimeout
  | 0x034 => some .settle
  | 0x038 => some .backoff
  | 0x03C => some .dbgCount
  | 0x040 => some .hsAttempts
  | _ => none

/-- The first offset above the register area (20_memory.md R63). -/
def registerAreaEnd : Nat := 0x400

/-- The bytes of an access. -/
def Width.bytes : Width → Nat
  | .byte => 1
  | .half => 2
  | .word => 4

/-- An access that is no bus error: naturally aligned, and 32 bits wide in the register area (20_memory.md R63, R64). -/
def permitted (width : Width) (off : Offset) : Bool :=
  off.toNat % Width.bytes width == 0 && (registerAreaEnd ≤ off.toNat || width == .word)

/-- The identification value (10_state.md R21). -/
def idValue : Word := 0x4D424631

/-- A 32-bit read of a register (10_state.md R21 to R42). -/
def State.readReg (p : Config.Params) (r : Reg) (s : State) : Word :=
  match r with
  | .id => idValue
  | .ctrl => s.ctrlWord
  | .status => s.statusWord
  | .cmd => 0
  | .result => s.resultWord
  | .abort => 0
  | .txHdr => s.txHdr
  | .rxHdr => s.rxHdr
  | .pktInfo => s.pktInfoWord
  | .retryCount => s.retryCount
  | .retryLimit => s.retryLimit
  | .readTimeout => s.readTimeout
  | .hsTimeout => s.hsTimeout
  | .settle => s.settle
  | .backoff => backoff p
  | .dbgCount => s.dbgCount
  | .hsAttempts => s.hsAttemptsWord

/-- A byte above the register area: a buffer's, or 0 at a reserved offset (20_memory.md R61). -/
def State.bufferByte (s : State) (a : Nat) : Byte := if inBuffer a then Memory.read s.mem a else 0

/-- The value a permitted host read returns (20_memory.md R61 to R63). -/
def State.hostRead (p : Config.Params) (width : Width) (off : Offset) (s : State) : Word :=
  if off.toNat < registerAreaEnd then
    match regAt off.toNat with
    | some r => s.readReg p r
    | none => 0
  else BitVec.ofNat 32 (leNat ((List.range (Width.bytes width)).map fun i => s.bufferByte (off.toNat + i)))

/-- A refused host write sets OVR (20_memory.md R66, 30_encoding.md R94). -/
def State.overrun (s : State) : State := { s with ovr := true }

/-- A configuration write, under the lock of 20_memory.md R66. -/
def State.configure (write : State → State) (s : State) : State := if s.locked then s.overrun else write s

/-- The acceptance of a command word (30_encoding.md R93); an illegal one ends at once (R95). -/
def State.accept (w : Word) (s : State) : State :=
  let s' : State := { s with seq := .running w .start, done := false, cancelPend := false }
  match decode w with
  | .ok _ => s'
  | .error _ => s'.finish .illegalCommand .none

/-- A write to CMD (30_encoding.md R93, R94). -/
def State.writeCmd (w : Word) (s : State) : State := if s.locked then s.overrun else s.accept w

/-- A write to STATUS: DONE and OVR are cleared by writing 1 (10_state.md R24). -/
def State.writeStatus (v : Word) (s : State) : State :=
  { s with done := s.done && !v.getLsbD 1, ovr := s.ovr && !v.getLsbD 5 }

/-- A write to ABORT (10_state.md R31). -/
def State.writeAbort (v : Word) (s : State) : State :=
  { s with cancelPend := s.cancelPend || (s.busy && v.getLsbD 0) }

/-- A write to CTRL's four fields (10_state.md R22). -/
def State.setCtrl (v : Word) (s : State) : State :=
  { s with ackEn := v.getLsbD 0, strict := v.getLsbD 1, ieDone := v.getLsbD 2, ieFatal := v.getLsbD 3 }

/-- A 32-bit write of a register; a read-only one ignores it (20_memory.md R61). -/
def State.writeReg (r : Reg) (v : Word) (s : State) : State :=
  match r with
  | .ctrl => s.configure (State.setCtrl v)
  | .status => s.writeStatus v
  | .cmd => s.writeCmd v
  | .abort => s.writeAbort v
  | .txHdr => s.configure fun s => { s with txHdr := v }
  | .retryLimit => s.configure fun s => { s with retryLimit := v }
  | .readTimeout => s.configure fun s => { s with readTimeout := v }
  | .hsTimeout => s.configure fun s => { s with hsTimeout := v }
  | .settle => s.configure fun s => { s with settle := v }
  | .id | .result | .rxHdr | .pktInfo | .retryCount | .backoff | .dbgCount | .hsAttempts => s

/-- The low bytes of `v` stored in TX_DATA at `a` (20_memory.md R63). -/
def State.setTxData (width : Width) (a : Nat) (v : Word) (s : State) : State :=
  { s with mem := Memory.writeRange s.mem a (leBytes (Width.bytes width) v) }

/-- A permitted host write (20_memory.md R61, R66). -/
def State.hostWrite (width : Width) (off : Offset) (v : Word) (s : State) : State :=
  if off.toNat < registerAreaEnd then
    match regAt off.toNat with
    | some r => s.writeReg r v
    | none => s
  else if inTx off.toNat then s.configure (State.setTxData width off.toNat v)
  else s

/-- A read's value is noted among the values the host has read; the block's own state is unchanged (20_memory.md R65). -/
def State.noteRead (width : Width) (off : Offset) (value : Word) (s : State) : State :=
  { s with busReads := s.busReads ++ [{ width := width, off := off, value := value }] }

/-- One host access (20_memory.md R63 to R65) under the parameters `p`. -/
def hostAccess (p : Config.Params) (a : HostAccess) (s : State) : Result :=
  match a with
  | .read width off =>
    if permitted width off then .next (s.noteRead width off (s.hostRead p width off)) else .fault .busError
  | .write width off v => if permitted width off then .next (s.hostWrite width off v) else .fault .busError

/-- The event a reset leaves of a Transport call it cuts short: its answer is discarded (70_reset_and_hazards.md R320). -/
def cutEvent : Option Call → List Event
  | none => []
  | some (.send p) => [.send p none]
  | some (.recv t) => [.recv t none]

/-- The platform's reset (70_reset_and_hazards.md R320): every piece of the block's state takes its reset value. The
environment's queues and the record of the run stay, but for the answer to a call that is cut short (log 16). -/
def State.platformReset (s : State) : State :=
  { State.reset with
    turns := s.turns
    sendAnswers := match s.pendingCall with
      | some (.send _) => s.sendAnswers.tail
      | _ => s.sendAnswers
    recvAnswers := match s.pendingCall with
      | some (.recv _) => s.recvAnswers.tail
      | _ => s.recvAnswers
    draws := s.draws
    trace := s.trace ++ cutEvent s.pendingCall
    busReads := s.busReads }

end Sys2Proof.Machine
end

