-- ==== Sys2Proof/Machine/Step.lean ====
section
/-! DEFINITION. One step of the machine: one turn of one agent (20_memory.md R68). -/

namespace Sys2Proof.Machine

/-- Whose turn it is: the next turn already decided, else a free one (20_memory.md R68, log 6). -/
def State.nextTurn (s : State) : Turn := s.turns.headD (Config.freeTurn s.draws)

/-- The turn is used up. -/
def State.takeTurn (s : State) : State :=
  { s with
    turns := s.turns.tail
    draws := if s.turns.isEmpty then s.draws + 1 else s.draws }

/-- The sequencer's turn: nothing in IDLE (60_exceptions.md R308), else the next line of the command whose word SEQ holds
(10_state.md R47). `accept` never leaves an illegal word in SEQ; should one stand there it ends as 30_encoding.md R95
says. -/
def sequencerStep (s : State) : Host.Outcome State Fault Refusal :=
  match s.seq with
  | .idle => .next s
  | .running w _ =>
    match decode w with
    | .ok i => exec i s
    | .error _ => .next (s.finish .illegalCommand .none)

/-- One step: one sequencer step, one host access, or one reset (20_memory.md R68, 70_reset_and_hazards.md R320). -/
def step (s : State) : Host.Outcome State Fault Refusal :=
  match s.nextTurn with
  | .sequencer => sequencerStep s.takeTurn
  | .host a => hostAccess Config.params a s.takeTurn
  | .reset => .next s.takeTurn.platformReset

/-- `n` turns of the sequencer, one after the other. -/
def sequencerRun : Nat → State → Host.Outcome State Fault Refusal
  | 0, s => .next s
  | n + 1, s =>
    match sequencerStep s with
    | .next s' => sequencerRun n s'
    | .fault f => .fault f
    | .refused r => .refused r

/-- `s` with the command word accepted, and the next turn the sequencer's: the block fetches nothing, a command word
reaches it by a CMD write (30_encoding.md R93, 70_reset_and_hazards.md R323), and this is the state such a write leaves. A
CMD write is accepted only in IDLE and with FATAL = 0, so both are set (log 14). -/
def State.withFetchWord (s : State) (nbits w : Nat) : State :=
  { (({ s with seq := .idle, fatal := false } : State).accept (BitVec.ofNat 32 (w % 2 ^ nbits))) with
    turns := .sequencer :: s.turns }

end Sys2Proof.Machine
end

