-- ==== Sys2Proof/Machine/HostProgram.lean ====
section
/-! DEFINITION. Host programs: the action forms and pseudo-instructions as host accesses (30_encoding.md R97, R98), and
the boot sequence (70_reset_and_hazards.md R325). -/

namespace Sys2Proof.Machine

/-- The window offset of a register. -/
def Reg.off (r : Reg) : Offset := BitVec.ofNat 13 (Reg.offset r)

/-- `wr REG, v` (30_encoding.md R97). -/
def wr (r : Reg) (v : Word) : HostAccess := .write .word (Reg.off r) v

/-- `wrb OFF, v` (30_encoding.md R97). -/
def wrb (off : Offset) (v : Byte) : HostAccess := .write .byte off (v.setWidth 32)

/-- `rd REG` (30_encoding.md R97). -/
def rd (r : Reg) : HostAccess := .read .word (Reg.off r)

/-- `wrb 0x400+i, bi` for every byte of a payload (30_encoding.md R98). -/
def writePayload (payload : Bytes) : List HostAccess :=
  payload.zipIdx.map fun c => wrb (BitVec.ofNat 13 (txBase + c.2)) c.1

/-- The accesses of a line, `wait_done` being one read of STATUS that the host repeats until `waitDoneEnds`
(30_encoding.md R97, R98). -/
def HostLine.accesses : HostLine → List HostAccess
  | .wr r v => [wr r v]
  | .wrb off v => [wrb off v]
  | .rd r => [rd r]
  | .command i => [wr .cmd (encode i)]
  | .waitDone => [rd .status]
  | .msg cmd payload => wr .txHdr (BitVec.ofNat 16 payload.length ++ cmd) :: writePayload payload
  | .run i => [wr .cmd (encode i), rd .status]
  | .current => [rd .status]
  | .ackDone => [wr .status 0x2]
  | .cancel => [wr .abort 0x1]

/-- `wait_done` ends when the STATUS it reads has DONE = 1 (30_encoding.md R97). -/
def waitDoneEnds (status : Word) : Bool := status.getLsbD 1

/-- The value of `CURRENT` from the STATUS it reads: `(STATUS >> 3) & 1` shifted left by 7 (30_encoding.md R98). -/
def currentOf (status : Word) : Byte := (BitVec.ofBool (status.getLsbD 3)) ++ 0#7

/-- The boot sequence (70_reset_and_hazards.md R325). -/
def bootSequence (ctrl tRead tHs tSettle n : Word) (probeCmd : Half) (probe : Bytes) : List HostLine :=
  [.rd .id, .wr .ctrl ctrl, .wr .readTimeout tRead, .wr .hsTimeout tHs, .wr .settle tSettle, .wr .retryLimit n,
    .msg probeCmd probe, .run .connect, .rd .result]

end Sys2Proof.Machine
end

