-- ==== Sys2Proof/Safety.lean ====
section
/-! DEFINITION. What holds of every state the machine can reach, and what counts as a safe run, in the terms claims use:
the positions and error codes of each command, the invariant, the fatal state, and the frames. -/

namespace Sys2Proof.Machine

/-! ## Commands, their error codes and their positions -/

/-- The codes of a failed reassembly (60_exceptions.md R281). -/
def reassemblyCode : ErrCode → Bool
  | .lengthMismatch | .badPacket | .streamInconsistent | .streamTooLong => true
  | _ => false

/-- The column "raised by" of the error codes (60_exceptions.md R281), with NONE for every command. -/
def raises : Instr → ErrCode → Bool
  | .encode, c => c == .none || c == .oversizeMessage
  | .consume _, c => c == .none || c == .notConnected || reassemblyCode c || c == .cancelled || c == .fatal
  | .advance, c => c == .none
  | .resetFlip _, c => c == .none
  | .request _ _, c =>
    c == .none || c == .notConnected || c == .oversizeMessage || c == .transportError || c == .noAck || c == .noReply ||
      reassemblyCode c || c == .retryExhausted || c == .cancelled || c == .fatal
  | .sendOnly _, c =>
    c == .none || c == .notConnected || c == .oversizeMessage || c == .transportError || c == .cancelled || c == .fatal
  | .connect, c =>
    c == .none || c == .alreadyConnected || c == .probeTooLarge || c == .linkDown || c == .handshakeAborted ||
      c == .cancelled
  | .disconnect, c => c == .none || c == .notConnected

/-- The positions of Reassemble (41_reassembly.md R151). -/
def reassemblyPos : Pos → Bool
  | .streamStart | .rxCheck | .receiving | .streamComplete | .validate | .debugCount => true
  | .reassembled (.fail c) => reassemblyCode c
  | .reassembled _ => true
  | _ => false

/-- The positions of TransmitStream (43_coordinator.md R212). -/
def transmitPos : Pos → Bool
  | .transmit _ | .sending _ | .settleCheck _ | .settling _ | .transmitted => true
  | _ => false

/-- The positions of CONNECT between its first line and its last (44_handshake.md R240). -/
def handshakePos : Pos → Bool
  | .enterHandshake | .markerCheck | .markerCount | .markerSending | .markerBackoffCheck | .markerBackingOff
  | .markerSettleCheck | .markerSettling | .flipReset | .enterFlipBitReset | .probeStore | .probeRef | .probeAdvance
  | .probeCheck | .probeSending | .probeSettleCheck | .probeSettling | .enterProbeSent | .enterAuxAck | .auxCheck
  | .auxReceiving | .clearAckFlag | .enterMainAck | .mainCheck | .mainReceiving | .enterConnected => true
  | _ => false

/-- The positions of each command's pseudocode (10_state.md R47: "no command jumps elsewhere"). -/
def ownPos : Instr → Pos → Bool
  | _, .start => true
  | .encode, .finishing err outcome => err == .none && outcome == .none
  | .encode, _ => false
  | .consume _, .finishing err outcome => err == .cancelled && outcome == .none
  | .consume _, pos => reassemblyPos pos
  | .advance, .finishing err outcome => err == .none && outcome == .none
  | .advance, _ => false
  | .resetFlip _, .finishing err outcome => err == .none && outcome == .none
  | .resetFlip _, _ => false
  | .request _ _, .advance => true
  | .request _ _, .clearRetries => true
  | .request _ _, .ackCheck => true
  | .request _ _, .ackReceiving => true
  | .request _ _, .busy _ => true
  | .request _ _, .backoffCheck => true
  | .request _ _, .backingOff => true
  | .request _ _, .countRetry => true
  | .request _ _, .finishing err outcome => err == .cancelled && outcome == .none
  | .request _ _, pos => transmitPos pos || reassemblyPos pos
  | .sendOnly _, .advance => true
  | .sendOnly _, pos => transmitPos pos
  | .connect, .finishing err outcome => raises .connect err && outcome == .none
  | .connect, pos => handshakePos pos
  | .disconnect, .finishing err outcome => err == .none && outcome == .none
  | .disconnect, .transportReset => true
  | .disconnect, .leaveConnected => true
  | .disconnect, .clearRxState => true
  | .disconnect, _ => false

/-- The handshake state that STATUS.HS_STATE shows at a position of CONNECT (10_state.md R47, 44_handshake.md R240). -/
def hsStateAt : Pos → Option HsState
  | .markerCheck | .markerCount | .markerSending | .markerBackoffCheck | .markerBackingOff | .markerSettleCheck
  | .markerSettling | .flipReset | .enterFlipBitReset => some .disconnected
  | .probeStore | .probeRef | .probeAdvance | .probeCheck | .probeSending | .probeSettleCheck | .probeSettling
  | .enterProbeSent => some .flipBitReset
  | .enterAuxAck => some .probeSent
  | .auxCheck | .auxReceiving | .clearAckFlag | .enterMainAck => some .auxAckAwaited
  | .mainCheck | .mainReceiving | .enterConnected => some .mainAckAwaited
  | _ => none

/-- What CONNECTED is at a position: 1 in the commands that need a session, once past their first line, and in DISCONNECT
until it drops it; 0 in CONNECT until it sets it. -/
def connectedAt : Instr → Pos → Option Bool
  | _, .start => none
  | .consume _, _ => some true
  | .request _ _, _ => some true
  | .sendOnly _, _ => some true
  | .connect, pos => if handshakePos pos then some false else none
  | .disconnect, .transportReset => some true
  | .disconnect, .leaveConnected => some true
  | .disconnect, .clearRxState => some false
  | _, _ => none

/-- What the other registers are at a position: the packet index is below PKT_COUNT while a packet is being sent, the
marker attempts are counted, RX_STATE shows the reassembly's state, and a complete stream has a first packet. -/
def State.registersAt (s : State) : Pos → Prop
  | .transmit i => i ≤ s.pktCount.toNat
  | .sending i => i < s.pktCount.toNat
  | .settleCheck i => i < s.pktCount.toNat
  | .settling i => i < s.pktCount.toNat
  | .enterHandshake => s.hsAttempts.toNat < Config.markerAttempts
  | .markerCheck => s.hsAttempts.toNat < Config.markerAttempts
  | .markerCount => s.hsAttempts.toNat < Config.markerAttempts
  | .markerBackoffCheck => s.hsAttempts.toNat < Config.markerAttempts
  | .markerBackingOff => s.hsAttempts.toNat < Config.markerAttempts
  | .rxCheck => s.rxState = if s.scratch.first then .awaitFirstPacket else .accumulatingContinuation
  | .receiving => s.rxState = if s.scratch.first then .awaitFirstPacket else .accumulatingContinuation
  | .streamComplete => s.rxState = .accumulatingContinuation ∧ s.scratch.first = false
  | .validate => s.rxState = .complete ∧ s.scratch.first = false
  | .debugCount => s.rxState = .complete
  | .reassembled .msg => s.rxState = .complete
  | .reassembled .retry => s.rxState = .complete
  | .reassembled .noMsg => s.rxState = .awaitFirstPacket
  | .reassembled (.fail _) => s.rxState = .failed
  | _ => True

/-! ## The invariant -/

/-- The scratch's bounds (10_state.md R48, 41_reassembly.md R163): `k` counts to 16, the first packet adds at most 58
data bytes and each later one at most 62. -/
structure Scratch.Bounded (sc : Scratch) : Prop where
  first_iff : sc.first = true ↔ sc.k = 0
  k_le : sc.k ≤ Config.pktMax
  sum_le : sc.sum ≤ Config.payloadMax * sc.k
  acc_le : sc.acc.length ≤ Config.payloadMax * sc.k - Config.subHdr

/-- What SEQ's position says of the rest of the state. -/
structure State.AtPos (s : State) (i : Instr) (pos : Pos) : Prop where
  /-- R47: the position is one of the command's own. -/
  own : ownPos i pos = true
  /-- HS_STATE exposes the handshake's position. -/
  hs : ∀ h, hsStateAt pos = some h → s.hsState = h
  /-- The session a command needs. -/
  session : ∀ c, connectedAt i pos = some c → s.connected = c
  /-- The probe fits one packet once CONNECT has checked it (44_handshake.md R242). -/
  probe : i = .connect → handshakePos pos = true → s.txLength.toNat ≤ probeMax
  registers : s.registersAt pos

/-- The invariant of the machine. -/
structure State.Inv (s : State) : Prop where
  /-- The buffers are in canonical form. -/
  memory_wf : Memory.wf s.mem
  /-- Every listed byte lies in one of the four buffers (20_memory.md R60). -/
  memory_in : ∀ c ∈ s.mem, inBuffer c.1 = true
  /-- 10_state.md R25: "STATUS.CONNECTED = 1 exactly when HS_STATE = 5". -/
  connected_iff : s.connected = true ↔ s.hsState = .connected
  /-- DONE is 0 while a command runs (10_state.md R24, 30_encoding.md R93). -/
  done_idle : s.done = true → s.seq = .idle
  /-- The fatal state is idle (60_exceptions.md R287, R288). -/
  fatal_idle : s.fatal = true → s.seq = .idle
  /-- The fatal state is not connected (60_exceptions.md R287). -/
  fatal_disconnected : s.fatal = true → s.hsState = .disconnected
  /-- 10_state.md R27: FATAL_CAUSE is 0 unless STATUS.FATAL = 1. -/
  cause_iff : s.fatalCause ≠ .none ↔ s.fatal = true
  /-- 10_state.md R49: a cancellation never outlives its command. -/
  cancel_busy : s.cancelPend = true → s.busy = true
  /-- 10_state.md R34: PKT_COUNT is 0 to 16. -/
  pktCount_le : s.pktCount.toNat ≤ Config.pktMax
  /-- 10_state.md R42: HS_ATTEMPTS is 0 to 10. -/
  attempts_le : s.hsAttempts.toNat ≤ Config.markerAttempts
  /-- 41_reassembly.md R163. -/
  scratch_bounded : s.scratch.Bounded
  /-- 10_state.md R47: SEQ holds a legal command's word and a position of its pseudocode. -/
  seq_legal : ∀ w pos, s.seq = .running w pos → ∃ i, decode w = .ok i ∧ s.AtPos i pos

/-! ## Safe runs -/

/-- The fatal state (60_exceptions.md R288): for a model a fault, "a state that is never final". A run is safe while it
is not in it. -/
def State.halted (s : State) : Bool := s.fatal

/-- Some number of turns of the sequencer, with no host access or reset between them, leads from `s` to `t`. -/
def RunsTo (s t : State) : Prop := ∃ n, sequencerRun n s = .next t

/-- The command whose word was `w` has ended by `finish(err, outcome)` (60_exceptions.md R284). -/
structure Ended (w : Word) (err : ErrCode) (outcome : Reply) (t : State) : Prop where
  idle : t.seq = .idle
  done : t.done = true
  cancel : t.cancelPend = false
  err : t.errCode = err
  outcome : t.outcome = outcome
  cause : t.fatalCause = .none
  lastOp : t.lastOp = opField w

/-! ## Streams, as the Transport delivers them -/

/-- The strings of one packet stream taken one after the other from the scratch `sc`: each but the last leaves the stream
open and the last completes it (41_reassembly.md R151). `none` if a string fails or the stream ends elsewhere. -/
def feedStream (strict : Bool) (sc : Scratch) : List Bytes → Option Scratch
  | [] => none
  | b :: bs =>
    match rxPacket strict sc b with
    | .failed _ => none
    | .accepted sc' complete =>
      if complete then (if bs = [] then some sc' else none) else feedStream strict sc' bs

/-- The strings `bs` are one valid stream with command `cmd` and payload `data` (41_reassembly.md R164). -/
def IsStream (strict : Bool) (bs : List Bytes) (cmd : Half) (data : Bytes) : Prop :=
  (∀ b ∈ bs, b.length ≤ Config.mtu) ∧
  ∃ sc, feedStream strict Scratch.reset bs = some sc ∧ sc.valid = true ∧ sc.command = cmd ∧ sc.acc = data

/-- The events of sending the packets `ps`, each answered OK and followed by the settling delay (43_coordinator.md R212). -/
def sendEvents (settle : Word) (ps : List Bytes) : List Event :=
  ps.flatMap fun p => [.send p (some .ok), .wait settle]

/-- The events of receiving the strings `bs` (70_reset_and_hazards.md R341). -/
def recvEvents (t : Word) (bs : List Bytes) : List Event := bs.map fun b => .recv t (some (.pkt b))

/-! ## Decoding -/

/-- The operand bits a command uses (30_encoding.md R92). -/
def operandMask : Instr → Word
  | .encode => 0
  | .consume _ => 0x200
  | .advance => 0
  | .resetFlip _ => 0x100
  | .request _ _ => 0x300
  | .sendOnly _ => 0x200
  | .connect => 0
  | .disconnect => 0

/-- A command with its operands read from a word's ARG and EOT bits (30_encoding.md R91). -/
def withOperands (w : Word) : Instr → Instr
  | .encode => .encode
  | .consume _ => .consume (w.getLsbD 9)
  | .advance => .advance
  | .resetFlip _ => .resetFlip (w.getLsbD 8)
  | .request _ _ => .request (w.getLsbD 8) (w.getLsbD 9)
  | .sendOnly _ => .sendOnly (w.getLsbD 9)
  | .connect => .connect
  | .disconnect => .disconnect

/-! ## Frames -/

/-- Every byte of the window's buffers outside `[base, base + n)` reads as before. -/
def SameMemoryOutside (base n : Nat) (s t : State) : Prop :=
  ∀ a, (a < base ∨ base + n ≤ a) → Memory.read t.mem a = Memory.read s.mem a

/-- Every byte reads as before. -/
def SameMemory (s t : State) : Prop := ∀ a, Memory.read t.mem a = Memory.read s.mem a

/-- The registers that only the host or a reset writes: CTRL, TX_HDR, RETRY_LIMIT, the timing registers and OVR; and the
model's queue of turns and its bus reads, which no command touches (10_state.md R54, 20_memory.md R66). -/
structure SameHostSide (s t : State) : Prop where
  ackEn : t.ackEn = s.ackEn
  strict : t.strict = s.strict
  ieDone : t.ieDone = s.ieDone
  ieFatal : t.ieFatal = s.ieFatal
  txHdr : t.txHdr = s.txHdr
  retryLimit : t.retryLimit = s.retryLimit
  readTimeout : t.readTimeout = s.readTimeout
  hsTimeout : t.hsTimeout = s.hsTimeout
  settle : t.settle = s.settle
  ovr : t.ovr = s.ovr
  turns : t.turns = s.turns
  busReads : t.busReads = s.busReads

/-- RESULT, DONE and CANCEL_PEND: what only the end of a command writes, beside the host and a reset. -/
structure SameResult (s t : State) : Prop where
  errCode : t.errCode = s.errCode
  outcome : t.outcome = s.outcome
  fatalCause : t.fatalCause = s.fatalCause
  lastOp : t.lastOp = s.lastOp
  done : t.done = s.done
  cancelPend : t.cancelPend = s.cancelPend

end Sys2Proof.Machine
end

