-- ==== Sys2Proof/Certificates/Slice0/Obligations.lean ====
section
/-! DEFINITION. The statements for the provers. Each says in its docstring which rule of spec/ it formalises; OBLIGATIONS.json
lists them. `exec` runs one line of a command's pseudocode, so a statement about a line names SEQ's position, and a
statement about a whole command is about `RunsTo`. -/

open Sys2Proof Sys2Proof.Machine

/-! ## The command word -/

/-- Command words written out from 30_encoding.md §1 and §2 decode to the commands they stand for, and the illegal words
of its R95 are rejected by name. -/
def Obligations.SampleCommandWordsDecode : Prop :=
  decode 0x00000001 = .ok .encode ∧ decode 0x00000301 = .ok .encode ∧
  decode 0x00000202 = .ok (.consume true) ∧ decode 0x00000002 = .ok (.consume false) ∧
  decode 0x00000003 = .ok .advance ∧
  decode 0x00000104 = .ok (.resetFlip true) ∧ decode 0x00000004 = .ok (.resetFlip false) ∧
  decode 0x00000105 = .ok (.request true false) ∧ decode 0x00000205 = .ok (.request false true) ∧
  decode 0x00000206 = .ok (.sendOnly true) ∧
  decode 0x00000007 = .ok .connect ∧ decode 0x00000008 = .ok .disconnect ∧
  decode 0x00000000 = .error (.illegalOpcode 0x00) ∧ decode 0x00000009 = .error (.illegalOpcode 0x09) ∧
  decode 0x00000401 = .error (.reservedBits 1)

/-- R96: the decoder answers the one row whose match equals `w & 0xFFFFFCFF`, with the operand bits of the word, and
rejects a word that matches no row; two rows that match one word are the same row. -/
def Obligations.DecodeIsTheMatchingTableRow : Prop :=
  (∀ (w : Word) (i : Instr), w &&& 0xFFFFFCFF#32 = tableMatch i → decode w = .ok (withOperands w i)) ∧
  (∀ w : Word, (∀ i : Instr, w &&& 0xFFFFFCFF#32 ≠ tableMatch i) → ∃ e, decode w = .error e) ∧
  (∀ (w : Word) (i j : Instr), w &&& 0xFFFFFCFF#32 = tableMatch i → w &&& 0xFFFFFCFF#32 = tableMatch j →
    withOperands w i = withOperands w j)

/-- Decoding an encoded command gives it back, and encoding a decoded word gives the word back but for the bits that its
command ignores (R90 to R92). -/
def Obligations.DecodeAndEncodeAgree : Prop :=
  (∀ i : Instr, decode (encode i) = .ok i) ∧
  (∀ (w : Word) (i : Instr), decode w = .ok i → encode i = w &&& (0xFFFFFCFF#32 ||| operandMask i))

/-! ## The host window -/

/-- R93: a write of a legal word to CMD in IDLE with FATAL = 0 is accepted: SEQ takes the command at its start (so BUSY
is 1), DONE and CANCEL_PEND become 0, and nothing else changes; in particular RESULT keeps its value. -/
def Obligations.CommandWriteIsAccepted : Prop :=
  ∀ (p : Config.Params) (s : State) (w : Word) (i : Instr),
    s.seq = .idle → s.fatal = false → decode w = .ok i →
    hostAccess p (wr .cmd w) s = .next { s with seq := .running w .start, done := false, cancelPend := false }

/-- R95: an accepted illegal word ends at once with ILLEGAL_COMMAND and changes no state but RESULT and STATUS
(CANCEL_PEND is 0 in IDLE, R49). That the acceptance and the end are one step is the model's reading (log 9). -/
def Obligations.IllegalWordEndsAtOnce : Prop :=
  ∀ (p : Config.Params) (s : State) (w : Word),
    s.seq = .idle → s.fatal = false → s.cancelPend = false →
    (w.extractLsb' 0 8 = 0x00#8 ∨ 0x09#8 ≤ w.extractLsb' 0 8 ∨ w.extractLsb' 10 22 ≠ 0#22) →
    hostAccess p (wr .cmd w) s =
      .next { s with errCode := .illegalCommand, outcome := .none, fatalCause := .none,
                     lastOp := w.extractLsb' 0 8, done := true }

/-- R66, R94: a write to CTRL, TX_HDR, TX_DATA, RETRY_LIMIT, READ_TIMEOUT, HS_TIMEOUT, SETTLE or CMD while BUSY = 1 or
FATAL = 1 changes nothing but OVR, which becomes 1. -/
def Obligations.CommandsAndConfigurationAreLockedWhileBusyOrFatal : Prop :=
  ∀ (p : Config.Params) (s : State) (width : Width) (off : Offset) (v : Word),
    (s.seq ≠ .idle ∨ s.fatal = true) → permitted width off = true →
    (off ∈ [0x004, 0x00C, 0x018, 0x028, 0x02C, 0x030, 0x034] ∨ (0x400 ≤ off.toNat ∧ off.toNat ≤ 0x7DB)) →
    hostAccess p (.write width off v) s = .next { s with ovr := true }

/-- R22, R32, R36 to R39: while the block is idle and not fatal, a write to a configuration register takes effect at once,
and to that register only; CTRL keeps its four low bits. -/
def Obligations.ConfigurationWriteTakesEffect : Prop :=
  ∀ (p : Config.Params) (s : State) (v : Word), s.seq = .idle → s.fatal = false →
    hostAccess p (wr .ctrl v) s =
      .next { s with ackEn := v.getLsbD 0, strict := v.getLsbD 1, ieDone := v.getLsbD 2, ieFatal := v.getLsbD 3 } ∧
    hostAccess p (wr .txHdr v) s = .next { s with txHdr := v } ∧
    hostAccess p (wr .retryLimit v) s = .next { s with retryLimit := v } ∧
    hostAccess p (wr .readTimeout v) s = .next { s with readTimeout := v } ∧
    hostAccess p (wr .hsTimeout v) s = .next { s with hsTimeout := v } ∧
    hostAccess p (wr .settle v) s = .next { s with settle := v }

/-- R64: exactly a misaligned access, or a register-area access narrower than 32 bits, is a bus error; every other access
answers a next state. -/
def Obligations.BusErrorExactlyOnForbiddenAccesses : Prop :=
  ∀ (p : Config.Params) (s : State) (width : Width) (off : Offset) (v : Word),
    let forbidden := off.toNat % Width.bytes width ≠ 0 ∨ (off.toNat < 0x400 ∧ width ≠ .word)
    (forbidden → hostAccess p (.read width off) s = .fault .busError ∧
      hostAccess p (.write width off v) s = .fault .busError) ∧
    (¬ forbidden → (∃ t, hostAccess p (.read width off) s = .next t) ∧
      ∃ t, hostAccess p (.write width off v) s = .next t)

/-- R65: a permitted host read changes nothing of the block: it only adds the value it returns to the values the
host has read. The list of values read is the model's own record (log 8). -/
def Obligations.HostReadsHaveNoSideEffect : Prop :=
  ∀ (p : Config.Params) (s t : State) (width : Width) (off : Offset),
    hostAccess p (.read width off) s = .next t →
    t = { s with busReads := s.busReads ++ [⟨width, off, s.hostRead p width off⟩] }

/-- R61: a reserved offset reads 0, and a write to it, to a read-only register or to a read-only buffer changes nothing
at all. -/
def Obligations.ReservedAndReadOnlyOffsetsIgnoreWrites : Prop :=
  ∀ (p : Config.Params) (s : State) (width : Width) (off : Offset) (v : Word), permitted width off = true →
    ((0x044 ≤ off.toNat ∧ off.toNat < 0x400) ∨ (0x7DC ≤ off.toNat ∧ off.toNat < 0x800) ∨
        (0xBDC ≤ off.toNat ∧ off.toNat < 0x1000) ∨ 0x1440 ≤ off.toNat →
      s.hostRead p width off = 0 ∧ hostAccess p (.write width off v) s = .next s) ∧
    (off ∈ [0x000, 0x010, 0x01C, 0x020, 0x024, 0x038, 0x03C, 0x040] ∨
        (0x800 ≤ off.toNat ∧ off.toNat ≤ 0xBDB) ∨ (0x1000 ≤ off.toNat ∧ off.toNat ≤ 0x143F) →
      hostAccess p (.write width off v) s = .next s)

/-- R63: a permitted access of TX_DATA while the block is idle and not fatal stores the low bytes of its value, the low
byte at the low offset, changes no other byte and no register, and the same access reads them back. That a write narrower
than 32 bits takes the low bits of the value, and that a narrow read is zero-extended, is the model's reading (log 20). -/
def Obligations.TransmitBufferReadsBackWhatIsWritten : Prop :=
  ∀ (p : Config.Params) (s : State) (width : Width) (off : Offset) (v : Word),
    s.seq = .idle → s.fatal = false → permitted width off = true → 0x400 ≤ off.toNat → off.toNat ≤ 0x7DB →
    ∃ t, hostAccess p (.write width off v) s = .next t ∧
      (∀ j, j < Width.bytes width → Memory.read t.mem (off.toNat + j) = v.extractLsb' (8 * j) 8) ∧
      SameMemoryOutside off.toNat (Width.bytes width) s t ∧
      t = { s with mem := t.mem } ∧
      (t.hostRead p width off).toNat = v.toNat % 2 ^ (8 * Width.bytes width)

/-- R62, R63: a 32-bit read of a buffer returns the bytes at four consecutive offsets, the first in bits 7:0; a 16-bit
read two of them; an 8-bit read one. That the bits above a narrow read are 0 is the model's reading (log 20). -/
def Obligations.BufferReadsAreLittleEndian : Prop :=
  ∀ (p : Config.Params) (s : State) (off : Offset), inBuffer off.toNat = true →
    (permitted .word off = true → s.hostRead p .word off =
      Memory.read s.mem (off.toNat + 3) ++ Memory.read s.mem (off.toNat + 2) ++ Memory.read s.mem (off.toNat + 1) ++
        Memory.read s.mem off.toNat) ∧
    (permitted .half off = true → s.hostRead p .half off =
      0#16 ++ Memory.read s.mem (off.toNat + 1) ++ Memory.read s.mem off.toNat) ∧
    (permitted .byte off = true → s.hostRead p .byte off = 0#24 ++ Memory.read s.mem off.toNat)

/-- R24: a write to STATUS clears DONE and OVR where it has a 1, leaves them where it has a 0, and changes nothing else, at
any time. -/
def Obligations.StatusBitsClearByWritingOne : Prop :=
  ∀ (p : Config.Params) (s : State) (v : Word),
    ∃ t, hostAccess p (wr .status v) s = .next t ∧ t = { s with done := t.done, ovr := t.ovr } ∧
      t.done = (if v.getLsbD 1 then false else s.done) ∧ t.ovr = (if v.getLsbD 5 then false else s.ovr)

/-- R31: a 1 in bit 0 of ABORT sets CANCEL_PEND while a command runs; any other write to ABORT changes nothing (OVR
included), and ABORT reads 0. -/
def Obligations.AbortSetsCancelPendOnlyWhileBusy : Prop :=
  ∀ (p : Config.Params) (s : State) (v : Word),
    (s.seq ≠ .idle → v.getLsbD 0 = true → hostAccess p (wr .abort v) s = .next { s with cancelPend := true }) ∧
    (s.seq = .idle → hostAccess p (wr .abort v) s = .next s) ∧
    (v.getLsbD 0 = false → hostAccess p (wr .abort v) s = .next s) ∧
    s.hostRead p .word (Reg.off .abort) = 0

/-- R290: IRQ rises with the end of a command when IE_DONE = 1, stays low there when IE_DONE = 0 and the block is not
fatal, and falls when the host acknowledges DONE or a new command is accepted. -/
def Obligations.InterruptFollowsCompletion : Prop :=
  ∀ (p : Config.Params) (s : State),
    s.irq = ((s.done && s.ieDone) || (s.fatal && s.ieFatal)) ∧
    (∀ err out, (s.finish err out).irq = (s.ieDone || (s.fatal && s.ieFatal))) ∧
    (∀ cause, (s.raiseFatal cause).irq = (s.ieDone || s.ieFatal)) ∧
    (s.fatal = false → ∃ t, hostAccess p (wr .status 0x2) s = .next t ∧ t.irq = false) ∧
    (s.fatal = false → s.seq = .idle → ∀ i, ∃ t, hostAccess p (wr .cmd (encode i)) s = .next t ∧ t.irq = false)

/-- R24 to R29, R281: where each field stands in STATUS and RESULT as the host reads them, and the number that each value
of HS_STATE, RX_STATE, ERR_CODE, OUTCOME and FATAL_CAUSE reads as. -/
def Obligations.StatusAndResultFields : Prop :=
  ∀ (p : Config.Params) (s : State),
    let st := s.hostRead p .word (Reg.off .status)
    let rs := s.hostRead p .word (Reg.off .result)
    (st.getLsbD 0 = true ↔ s.seq ≠ .idle) ∧ st.getLsbD 1 = s.done ∧ st.getLsbD 2 = s.connected ∧
    st.getLsbD 3 = s.flip ∧ st.getLsbD 4 = s.fatal ∧ st.getLsbD 5 = s.ovr ∧ st.extractLsb' 11 21 = 0 ∧
    (st.extractLsb' 6 3).toNat =
      (match s.hsState with
      | .disconnected => 0 | .flipBitReset => 1 | .probeSent => 2 | .auxAckAwaited => 3 | .mainAckAwaited => 4
      | .connected => 5 | .failed => 6) ∧
    (st.extractLsb' 9 2).toNat =
      (match s.rxState with
      | .awaitFirstPacket => 0 | .accumulatingContinuation => 1 | .complete => 2 | .failed => 3) ∧
    (rs.extractLsb' 0 8).toNat =
      (match s.errCode with
      | .none => 0x00 | .oversizeMessage => 0x01 | .lengthMismatch => 0x02 | .badPacket => 0x03
      | .streamInconsistent => 0x04 | .streamTooLong => 0x05 | .transportError => 0x06 | .noAck => 0x07
      | .noReply => 0x08 | .retryExhausted => 0x09 | .linkDown => 0x0A | .handshakeAborted => 0x0B
      | .probeTooLarge => 0x0C | .notConnected => 0x0D | .alreadyConnected => 0x0E | .illegalCommand => 0x0F
      | .cancelled => 0x10 | .fatal => 0x11) ∧
    (rs.extractLsb' 8 4).toNat =
      (match s.outcome with
      | .none => 0 | .message => 1 | .retryRequested => 2 | .noMessage => 3) ∧
    (rs.extractLsb' 12 4).toNat =
      (match s.fatalCause with
      | .none => 0 | .rxTimeout => 1 | .rxIoErr => 2 | .txErr => 3) ∧
    rs.extractLsb' 16 8 = s.lastOp ∧ rs.extractLsb' 24 8 = 0

/-! ## Reset and the step -/

/-- R52, R320: a reset, in any state, leaves every register as R52's table says, as the host reads it, every buffer
byte 0, SEQ idle and CANCEL_PEND 0; it makes no Transport call, and of a call in progress it discards the answer.
What becomes of the model's queues and record is the model's choice (log 7, 8, 16). -/
def Obligations.ResetLeavesTheResetTable : Prop :=
  ∀ s : State, s.nextTurn = .reset → ∃ t, step s = .next t ∧
    (∀ r : Reg, t.readReg Config.params r =
      match r with
      | .id => 0x4D424631
      | .readTimeout => Config.params.readTimeoutReset
      | .hsTimeout => Config.params.hsTimeoutReset
      | .settle => Config.params.settleReset
      | .backoff => Config.params.ticksPerUnit
      | _ => 0) ∧
    (∀ a, Memory.read t.mem a = 0) ∧ t.seq = .idle ∧ t.cancelPend = false ∧ t.irq = false ∧
    (s.pendingCall = none →
      t.trace = s.trace ∧ t.sendAnswers = s.sendAnswers ∧ t.recvAnswers = s.recvAnswers) ∧
    (∀ b, s.pendingCall = some (.send b) →
      t.trace = s.trace ++ [.send b none] ∧ t.sendAnswers = s.sendAnswers.tail ∧ t.recvAnswers = s.recvAnswers) ∧
    (∀ x, s.pendingCall = some (.recv x) →
      t.trace = s.trace ++ [.recv x none] ∧ t.sendAnswers = s.sendAnswers ∧ t.recvAnswers = s.recvAnswers.tail)

/-- A step runs the decoded command: when it is the sequencer's turn and the word in SEQ decodes to `i`, the step
uses up the turn and is `exec i`; in IDLE the sequencer's turn changes nothing else (R308); a host turn is one
access and a reset turn one reset (R68). `withFetchWord` is a state of the first kind. The turns and `withFetchWord`
are the model's choice (log 6, 14). -/
def Obligations.StepRunsTheDecodedCommand : Prop :=
  (∀ (s : State) (w : Word) (pos : Pos) (i : Instr),
    s.nextTurn = .sequencer → s.seq = .running w pos → decode w = .ok i → step s = exec i s.takeTurn) ∧
  (∀ s : State, s.nextTurn = .reset → step s = .next s.takeTurn.platformReset) ∧
  (∀ s : State, s.nextTurn = .sequencer → s.seq = .idle → step s = .next s.takeTurn) ∧
  (∀ (s : State) (a : HostAccess), s.nextTurn = .host a → step s = hostAccess Config.params a s.takeTurn) ∧
  (∀ (s : State) (w : Word) (i : Instr), decode w = .ok i →
    step (s.withFetchWord 32 w.toNat) =
      exec i { s with seq := .running w .start, done := false, cancelPend := false, fatal := false })

/-! ## The Frame Codec and ENCODE -/

/-- R132, R133: the packet count of a length, range by range, and EncodeStream answers OVERSIZE exactly when LENGTH is
above 988. -/
def Obligations.PacketCountAndOversizeByLength : Prop :=
  (∀ len : Nat,
    (len ≤ 58 → packetCount len = 1) ∧ (59 ≤ len → len ≤ 120 → packetCount len = 2) ∧
    (∀ k, 1 ≤ k → k ≤ 15 → 62 * k - 3 ≤ len → len ≤ 62 * k + 58 → packetCount len = k + 1) ∧
    (927 ≤ len → len ≤ 988 → packetCount len = 16) ∧ (989 ≤ len → 17 ≤ packetCount len) ∧ 1 ≤ packetCount len) ∧
  (∀ (cmd len : Half) (data : Bytes) (flip ack : Bool),
    encodeStream cmd len data flip ack = none ↔ 988 < len.toNat)

/-- R134 and R196, with the packet layout of R100 to R105: a stream has `packetCount` packets of 64 bytes; packet `i` has
IDX `i` and TOT n − 1; every packet but the last has PLEN 62, the last has total − 62·(n−1), which lies in 1 to 62, the
first at least 4; the PLENs sum to 4 + len; the first packet's sub-header is the command and the length; the payload of
packet `i` is bytes 62·i on of the sub-header followed by the data, and bytes 2 + PLEN to 63 are 0x00; every packet
carries the one flip value and the one ack-request flag. -/
def Obligations.StreamPacketsAreWellFormed : Prop :=
  ∀ (cmd len : Half) (data : Bytes) (flip ack : Bool) (ps : List Bytes),
    encodeStream cmd len data flip ack = some ps → len.toNat ≤ data.length →
    ps.length = packetCount len.toNat ∧
    (∀ (i : Nat) (q : Bytes), ps[i]? = some q →
      q.length = 64 ∧ (q.getD 0 0).getLsbD 7 = flip ∧ (q.getD 0 0).getLsbD 6 = ack ∧
      (idxOf (q.getD 1 0)).toNat = i ∧ (totOf (q.getD 1 0)).toNat + 1 = ps.length ∧
      (i + 1 < ps.length → plenOf (q.getD 0 0) = 62) ∧
      (i + 1 = ps.length → plenOf (q.getD 0 0) + 62 * i = 4 + len.toNat) ∧
      1 ≤ plenOf (q.getD 0 0) ∧ plenOf (q.getD 0 0) ≤ 62 ∧
      (∀ j, j < plenOf (q.getD 0 0) → q.getD (2 + j) 0 =
        (cmd.extractLsb' 0 8 :: cmd.extractLsb' 8 8 :: len.extractLsb' 0 8 :: len.extractLsb' 8 8 :: data).getD
          (62 * i + j) 0) ∧
      (∀ j, 2 + plenOf (q.getD 0 0) ≤ j → j < 64 → q.getD j 0 = 0) ∧
      (i = 0 → 4 ≤ plenOf (q.getD 0 0) ∧ leHalf q 2 = cmd ∧ leHalf q 4 = len)) ∧
    (ps.map fun q => plenOf (q.getD 0 0)).sum = 4 + len.toNat

/-- R108: the marker reads as FLIP 1, ACK 1, PLEN 63, IDX 15, TOT 15, and it is no packet of any stream; the sixteenth
packet of a sixteen-packet stream that fills it, with flip 1 and ack 1, begins 0xFE, 0xFF. -/
def Obligations.MarkerIsNoCodecPacket : Prop :=
  (marker.getD 0 0).getLsbD 7 = true ∧ (marker.getD 0 0).getLsbD 6 = true ∧ plenOf (marker.getD 0 0) = 63 ∧
  idxOf (marker.getD 1 0) = 15 ∧ totOf (marker.getD 1 0) = 15 ∧
  ∀ (cmd len : Half) (data : Bytes) (flip ack : Bool) (ps : List Bytes),
    encodeStream cmd len data flip ack = some ps →
      (∀ q ∈ ps, plenOf (q.getD 0 0) ≠ 63 ∧ q ≠ marker) ∧
      (flip = true → ack = true → len = 988 → 988 ≤ data.length →
        ∃ q, ps[15]? = some q ∧ q.getD 0 0 = 0xFE ∧ q.getD 1 0 = 0xFF)

/-- R130, R136: ENCODE of a message of at most 988 bytes answers a next state whose packet buffer holds the stream at the
current flip bit, then zero packets, with PKT_COUNT its length, and nothing else changed but SEQ; its last line ends the
command. -/
def Obligations.EncodeStoresTheStream : Prop :=
  ∀ (s : State) (w : Word), s.seq = .running w .start → s.txLength.toNat ≤ 988 →
    ∃ (ps : List Bytes) (t : State),
      encodeStream s.txCommand s.txLength s.txPayload s.flip s.ackEn = some ps ∧
      exec .encode s = .next t ∧
      (∀ i, i < 16 → t.packet i = (ps[i]?).getD (List.replicate 64 0)) ∧
      t.pktCount.toNat = ps.length ∧
      SameMemoryOutside 0x1000 0x400 s t ∧
      t = { s with mem := t.mem, pktCount := t.pktCount, seq := .running w (.finishing .none .none) } ∧
      exec .encode t = .next (t.finish .none .none)

/-- R130, R133: ENCODE of a longer message ends with OVERSIZE_MESSAGE and leaves PKT, PKT_INFO and FLIP as they were. -/
def Obligations.EncodeRefusesAnOversizeMessage : Prop :=
  ∀ (s : State) (w : Word), s.seq = .running w .start → 988 < s.txLength.toNat →
    exec .encode s = .next (s.finish .oversizeMessage .none) ∧
    Ended w .oversizeMessage .none (s.finish .oversizeMessage .none)

/-! ## Reassembly and CONSUME -/

/-- R154, R155, R156, R158, R159: the checks on one received string, in order; the first that applies decides the code,
the stream fails with it, RX_STATE becomes Failed, and RX_HDR and memory keep what they held. What the failed stream
leaves in the scratch is left open: no rule reads it (R48). It holds in CONSUME and in REQUEST. -/
def Obligations.PacketCheckOrder : Prop :=
  ∀ (i : Instr) (s : State) (w : Word) (b : Bytes),
    ((∃ eot, i = .consume eot) ∨ ∃ arg eot, i = .request arg eot) →
    s.seq = .running w .receiving → s.recvAnswer = .pkt b →
    let plen := plenOf (b.getD 0 0)
    let idx := (idxOf (b.getD 1 0)).toNat
    let bad := b.length < 2 ∨ 62 < plen ∨ b.length < 2 + plen ∨ (s.scratch.first = true ∧ b.length < 6)
    let long := 16 < s.scratch.k + 1
    let inconsistent := s.strict = true ∧
      if s.scratch.first then idx ≠ 0
      else idx ≠ s.scratch.prevIdx.toNat + 1 ∨ totOf (b.getD 1 0) ≠ s.scratch.tot0
    let fails := fun (c : ErrCode) => ∃ sc : Scratch,
      exec i s = .next { s.received s.readTimeout with
        rxState := .failed, scratch := sc, seq := .running w (.reassembled (.fail c)) }
    (bad → fails .badPacket) ∧ (¬ bad → long → fails .streamTooLong) ∧
    (¬ bad → ¬ long → inconsistent → fails .streamInconsistent)

/-- R160, R161, R162: a string that passes the checks, those of STRICT included where it is set, is accumulated, as the
first packet of the stream or as a continuation, and completes the stream exactly when its IDX equals its own TOT. -/
def Obligations.AcceptedPacketIsAccumulated : Prop :=
  ∀ (i : Instr) (s : State) (w : Word) (b : Bytes),
    ((∃ eot, i = .consume eot) ∨ ∃ arg eot, i = .request arg eot) →
    s.seq = .running w .receiving → s.recvAnswer = .pkt b →
    (s.strict = true →
      if s.scratch.first then (idxOf (b.getD 1 0)).toNat = 0
      else (idxOf (b.getD 1 0)).toNat = s.scratch.prevIdx.toNat + 1 ∧ totOf (b.getD 1 0) = s.scratch.tot0) →
    2 ≤ b.length → plenOf (b.getD 0 0) ≤ 62 → 2 + plenOf (b.getD 0 0) ≤ b.length → s.scratch.k < 16 →
    let plen := plenOf (b.getD 0 0)
    let next : Pos := if idxOf (b.getD 1 0) = totOf (b.getD 1 0) then .streamComplete else .rxCheck
    (s.scratch.first = true → 6 ≤ b.length →
      exec i s = .next { s.received s.readTimeout with
        rxState := .accumulatingContinuation
        scratch := { acc := (b.drop 6).take (plen - 4), first := false, sum := s.scratch.sum + plen,
                     k := s.scratch.k + 1, prevIdx := idxOf (b.getD 1 0), tot0 := totOf (b.getD 1 0),
                     command := leHalf b 2, length := leHalf b 4 }
        seq := .running w next }) ∧
    (s.scratch.first = false →
      exec i s = .next { s.received s.readTimeout with
        scratch := { s.scratch with acc := s.scratch.acc ++ (b.drop 2).take plen, sum := s.scratch.sum + plen,
                                    k := s.scratch.k + 1, prevIdx := idxOf (b.getD 1 0) }
        seq := .running w next })

/-- R164, R165: a complete stream with `len(ACC) ≠ length` or `len(ACC) ≠ sum − 4` fails with LENGTH_MISMATCH, whatever
its command: nothing is committed, emitted or counted. -/
def Obligations.LengthMismatchFailsTheStream : Prop :=
  ∀ (i : Instr) (s : State) (w : Word),
    ((∃ eot, i = .consume eot) ∨ ∃ arg eot, i = .request arg eot) →
    s.seq = .running w .validate →
    (s.scratch.acc.length ≠ s.scratch.length.toNat ∨ (s.scratch.acc.length : Int) ≠ (s.scratch.sum : Int) - 4) →
    exec i s = .next { s with rxState := .failed, seq := .running w (.reassembled (.fail .lengthMismatch)) }

/-- R169: a valid stream with any command but the debug and the retry code is committed in one step: RX_HDR and RX_DATA
take the message, the bytes beyond its length become 0, and no other register and no other byte changes. -/
def Obligations.MessageIsCommittedWhole : Prop :=
  ∀ (i : Instr) (s : State) (w : Word),
    ((∃ eot, i = .consume eot) ∨ ∃ arg eot, i = .request arg eot) →
    s.seq = .running w .validate →
    s.scratch.acc.length = s.scratch.length.toNat → s.scratch.acc.length + 4 = s.scratch.sum →
    s.scratch.command ≠ Config.params.cmdDbgMessage → s.scratch.command ≠ Config.params.cmdIdRetry →
    ∃ t, exec i s = .next t ∧
      t.rxCommand = s.scratch.command ∧ t.rxLength = s.scratch.length ∧
      (∀ j, j < 988 → Memory.read t.mem (0x800 + j) = if j < s.scratch.length.toNat then s.scratch.acc.getD j 0 else 0) ∧
      SameMemoryOutside 0x800 988 s t ∧
      t = { s with rxHdr := t.rxHdr, mem := t.mem, seq := .running w (.reassembled .msg) }

/-- R166, R167: a valid debug message emits one line of its floor(length/2) little-endian units, then counts it modulo
2^32 and starts the next stream; RX_HDR and memory are unchanged and the command goes on. -/
def Obligations.DebugMessageIsEmittedAndCounted : Prop :=
  ∀ (i : Instr) (s : State) (w : Word),
    ((∃ eot, i = .consume eot) ∨ ∃ arg eot, i = .request arg eot) →
    (s.seq = .running w .validate →
      s.scratch.acc.length = s.scratch.length.toNat → s.scratch.acc.length + 4 = s.scratch.sum →
      s.scratch.command = Config.params.cmdDbgMessage →
      ∃ units : List Half, units.length = s.scratch.length.toNat / 2 ∧
        (∀ j, j < units.length →
          units.getD j 0 = s.scratch.acc.getD (2 * j + 1) 0 ++ s.scratch.acc.getD (2 * j) 0) ∧
        exec i s = .next { s with trace := s.trace ++ [.debugLine units], seq := .running w .debugCount }) ∧
    (s.seq = .running w .debugCount →
      exec i s = .next { s with dbgCount := s.dbgCount + 1, seq := .running w .streamStart })

/-- R168: a valid retry-requested stream makes Reassemble return RETRY and changes nothing else: RX_STATE stays Complete
and nothing is committed. -/
def Obligations.RetryRequestedCommitsNothing : Prop :=
  ∀ (i : Instr) (s : State) (w : Word),
    ((∃ eot, i = .consume eot) ∨ ∃ arg eot, i = .request arg eot) →
    s.seq = .running w .validate →
    s.scratch.acc.length = s.scratch.length.toNat → s.scratch.acc.length + 4 = s.scratch.sum →
    s.scratch.command = Config.params.cmdIdRetry →
    exec i s = .next { s with seq := .running w (.reassembled .retry) }

/-- R152, R171: a Recv of Reassemble that answers TIMEOUT or IOERR enters the fatal state under EOT = 1, with the cause
that tells them apart; under EOT = 0 it ends the reassembly with NOMSG and RX_STATE AwaitFirstPacket. -/
def Obligations.FailedReceiveFollowsThePolicy : Prop :=
  ∀ (eot : Bool) (i : Instr) (s : State) (w : Word), (i = .consume eot ∨ ∃ arg, i = .request arg eot) →
    s.seq = .running w .receiving →
    let after := s.received s.readTimeout
    (eot = true → s.recvAnswer = .timeout → exec i s = .next (after.raiseFatal .rxTimeout)) ∧
    (eot = true → s.recvAnswer = .ioerr → exec i s = .next (after.raiseFatal .rxIoErr)) ∧
    (eot = false → (s.recvAnswer = .timeout ∨ s.recvAnswer = .ioerr) →
      exec i s = .next { after with rxState := .awaitFirstPacket, seq := .running w (.reassembled .noMsg) })

/-- R150: CONSUME ends as Reassemble's answer says; it starts one reassembly when connected, and ends with NOT_CONNECTED
and no Recv when not. -/
def Obligations.ConsumeEndsByItsReassembly : Prop :=
  ∀ (eot : Bool) (s : State) (w : Word),
    (s.seq = .running w .start → s.connected = false → exec (.consume eot) s = .next (s.finish .notConnected .none)) ∧
    (s.seq = .running w .start → s.connected = true →
      exec (.consume eot) s =
        .next { s with rxState := .awaitFirstPacket,
                       scratch := { s.scratch with first := true, sum := 0, k := 0, acc := [] },
                       seq := .running w .rxCheck }) ∧
    (s.seq = .running w (.reassembled .msg) → exec (.consume eot) s = .next (s.finish .none .message)) ∧
    (s.seq = .running w (.reassembled .retry) → exec (.consume eot) s = .next (s.finish .none .retryRequested)) ∧
    (s.seq = .running w (.reassembled .noMsg) → exec (.consume eot) s = .next (s.finish .none .noMessage)) ∧
    (∀ c, s.seq = .running w (.reassembled (.fail c)) → exec (.consume eot) s = .next (s.finish c .none))

/-- R135: the packets of any encoded message, received by CONSUME in order, with STRICT 0 or 1, give back exactly the
message: OUTCOME MESSAGE, RX_HDR its command and length, RX_DATA its payload followed by zeros. The flip bit, the packet
buffer, TX_DATA and the host's registers stay. -/
def Obligations.ConsumeRecoversTheEncodedMessage : Prop :=
  ∀ (eot flip ack : Bool) (s : State) (w : Word) (cmd len : Half) (data : Bytes) (ps : List Bytes)
    (rest : List RecvAnswer),
    decode w = .ok (.consume eot) → s.seq = .running w .start → s.connected = true → s.cancelPend = false →
    len.toNat ≤ data.length → encodeStream cmd len data flip ack = some ps →
    cmd ≠ Config.params.cmdDbgMessage → cmd ≠ Config.params.cmdIdRetry →
    s.recvAnswers = ps.map RecvAnswer.pkt ++ rest →
    ∃ t, RunsTo s t ∧ Ended w .none .message t ∧ t.rxState = .complete ∧
      t.rxCommand = cmd ∧ t.rxLength = len ∧ t.rxPayload = data.take len.toNat ∧
      (∀ j, len.toNat ≤ j → j < 988 → Memory.read t.mem (0x800 + j) = 0) ∧
      SameMemoryOutside 0x800 988 s t ∧ SameHostSide s t ∧ t.flip = s.flip ∧ t.connected = true ∧
      t.recvAnswers = rest ∧ t.trace = s.trace ++ recvEvents s.readTimeout ps

/-- R157, R105: what a received string does is the same whatever its FLIP and ACK bits are, and whatever its bytes from
2 + PLEN on are (but for the sub-header, which a first packet with PLEN under 4 still has in bytes 2 to 5, R160). -/
def Obligations.FlipAckAndPaddingOfReceivedPacketsAreIgnored : Prop :=
  (∀ (strict : Bool) (sc : Scratch) (b c : Byte) (rest : Bytes), plenOf b = plenOf c →
    rxPacket strict sc (b :: rest) = rxPacket strict sc (c :: rest)) ∧
  (∀ (strict : Bool) (sc : Scratch) (b pad pad' : Bytes), 6 ≤ b.length → b.length = 2 + max 4 (plenOf (b.getD 0 0)) →
    rxPacket strict sc (b ++ pad) = rxPacket strict sc (b ++ pad')) ∧
  (∀ (strict : Bool) (sc : Scratch) (b pad pad' : Bytes), sc.first = false → b.length = 2 + plenOf (b.getD 0 0) →
    rxPacket strict sc (b ++ pad) = rxPacket strict sc (b ++ pad'))

/-! ## The Sequence Controller -/

/-- R191, R192: ADVANCE toggles FLIP, changes nothing else, and then ends with ERR_CODE 0. -/
def Obligations.AdvanceTogglesTheFlipBit : Prop :=
  ∀ (s : State) (w : Word), s.seq = .running w .start →
    exec .advance s = .next { s with flip := !s.flip, seq := .running w (.finishing .none .none) } ∧
    (decode w = .ok .advance →
      sequencerRun 2 s =
        .next { s with flip := !s.flip, errCode := .none, outcome := .none, fatalCause := .none, lastOp := 0x03,
                       cancelPend := false, done := true, seq := .idle })

/-- R193: RESET_FLIP sets FLIP to ARG, changes nothing else, and then ends with ERR_CODE 0. -/
def Obligations.ResetFlipSetsTheFlipBit : Prop :=
  ∀ (s : State) (w : Word) (arg : Bool), s.seq = .running w .start →
    exec (.resetFlip arg) s = .next { s with flip := arg, seq := .running w (.finishing .none .none) } ∧
    (decode w = .ok (.resetFlip arg) →
      sequencerRun 2 s =
        .next { s with flip := arg, errCode := .none, outcome := .none, fatalCause := .none, lastOp := 0x04,
                       cancelPend := false, done := true, seq := .idle })

/-! ## The Request/Reply Coordinator -/

/-- R211, R194: REQUEST and SEND_ONLY of a message that fits store its stream at the old flip bit and then advance FLIP
exactly once before the first Send; an oversize message, or a missing session, ends them with nothing stored, sent or
advanced. -/
def Obligations.SendingCommandsEncodeThenAdvance : Prop :=
  ∀ (i : Instr) (s : State) (w : Word), ((∃ arg eot, i = .request arg eot) ∨ ∃ eot, i = .sendOnly eot) →
    decode w = .ok i → s.seq = .running w .start →
    (s.connected = false → exec i s = .next (s.finish .notConnected .none)) ∧
    (s.connected = true → 988 < s.txLength.toNat → exec i s = .next (s.finish .oversizeMessage .none)) ∧
    (s.connected = true → s.txLength.toNat ≤ 988 →
      ∃ (ps : List Bytes) (t u : State),
        encodeStream s.txCommand s.txLength s.txPayload s.flip s.ackEn = some ps ∧
        exec i s = .next t ∧ t.seq = .running w .advance ∧ t.flip = s.flip ∧
        (∀ j, j < 16 → t.packet j = (ps[j]?).getD (List.replicate 64 0)) ∧ t.pktCount.toNat = ps.length ∧
        SameMemoryOutside 0x1000 0x400 s t ∧ SameHostSide s t ∧ SameResult s t ∧ t.trace = s.trace ∧
        RunsTo t u ∧ u.seq = .running w (.transmit 0) ∧ u.flip = !s.flip ∧ u.mem = t.mem ∧
        u.pktCount = t.pktCount ∧ u.trace = s.trace ∧
        ((∃ arg eot, i = .request arg eot) → u.retryCount = 0 ∧ u.cmd0 = s.txCommand) ∧
        ((∃ eot, i = .sendOnly eot) → u.retryCount = s.retryCount))

/-- R212: a Send of the stream that answers OK goes on to the settling delay of that packet; one that answers ERR ends
the command, by fatal entry with TX_ERR under EOT = 1 and with TRANSPORT_ERROR under EOT = 0, and no later packet is
sent. -/
def Obligations.SendAnswerDecidesTheTransmission : Prop :=
  ∀ (eot : Bool) (i : Instr) (s : State) (w : Word) (j : Nat), (i = .sendOnly eot ∨ ∃ arg, i = .request arg eot) →
    s.seq = .running w (.sending j) →
    let after := s.sent (s.packet j)
    (s.sendAnswer = .ok → exec i s = .next { after with seq := .running w (.settleCheck j) }) ∧
    (s.sendAnswer = .err → eot = true → exec i s = .next (after.raiseFatal .txErr)) ∧
    (s.sendAnswer = .err → eot = false → exec i s = .next (after.finish .transportError .none))

/-- R225, R212: SEND_ONLY on a live session, with every Send answered OK and no cancellation, sends the stream's packets in
increasing index order, each followed by Wait(SETTLE), and ends with ERR_CODE 0 without any receive; FLIP has advanced
once, the packet buffer holds the stream, and every other register and byte is as it was. -/
def Obligations.SendOnlySendsTheWholeStream : Prop :=
  ∀ (eot : Bool) (s : State) (w : Word) (rest : List SendAnswer),
    decode w = .ok (.sendOnly eot) → s.seq = .running w .start → s.connected = true → s.cancelPend = false →
    s.txLength.toNat ≤ 988 →
    s.sendAnswers = List.replicate (packetCount s.txLength.toNat) .ok ++ rest →
    ∃ (ps : List Bytes) (t : State),
      encodeStream s.txCommand s.txLength s.txPayload s.flip s.ackEn = some ps ∧
      RunsTo s t ∧ Ended w .none .none t ∧
      t.trace = s.trace ++ sendEvents s.settle ps ∧
      (∀ j, j < 16 → t.packet j = (ps[j]?).getD (List.replicate 64 0)) ∧
      SameMemoryOutside 0x1000 0x400 s t ∧
      t = { s with flip := !s.flip, mem := t.mem, pktCount := BitVec.ofNat 5 ps.length, sendAnswers := rest,
                   trace := t.trace, errCode := .none, outcome := .none, fatalCause := .none, lastOp := 0x06,
                   done := true, seq := .idle }

/-- R213: with ACK_EN = 1 REQUEST makes one Recv after the transmission, discards what it returns whatever it is, and goes
on to the reply; a failed one is fatal under EOT = 1 and ends with NO_ACK and NO_MESSAGE under EOT = 0. With ACK_EN = 0 it
goes to the reply at once. -/
def Obligations.AcknowledgmentIsReceivedAndDiscarded : Prop :=
  ∀ (arg eot : Bool) (s : State) (w : Word),
    let after := s.received s.readTimeout
    (s.seq = .running w .transmitted →
      exec (.request arg eot) s =
        .next { s with seq := .running w (if s.ackEn then .ackCheck else .streamStart) }) ∧
    (s.seq = .running w .ackCheck → s.cancelPend = false →
      exec (.request arg eot) s = .next { s with seq := .running w .ackReceiving }) ∧
    (s.seq = .running w .ackReceiving →
      (∀ b, s.recvAnswer = .pkt b →
        exec (.request arg eot) s = .next { after with seq := .running w .streamStart }) ∧
      (eot = true → s.recvAnswer = .timeout →
        exec (.request arg eot) s = .next (after.raiseFatal .rxTimeout)) ∧
      (eot = true → s.recvAnswer = .ioerr → exec (.request arg eot) s = .next (after.raiseFatal .rxIoErr)) ∧
      (eot = false → (s.recvAnswer = .timeout ∨ s.recvAnswer = .ioerr) →
        exec (.request arg eot) s = .next (after.finish .noAck .noMessage)))

/-- R215, R219, R220: the decision on the reply. A retry-requested reply under ARG = 1, and a device-status message to a
command that was no device-status request, are transient busy; every other reply ends REQUEST as its answer says. -/
def Obligations.ReplyDecision : Prop :=
  ∀ (arg eot : Bool) (s : State) (w : Word),
    let stray := s.rxCommand = Config.params.cmdDeviceStatus ∧ s.cmd0 ≠ Config.params.cmdDeviceStatus
    (s.seq = .running w (.reassembled .noMsg) →
      exec (.request arg eot) s = .next (s.finish .noReply .noMessage)) ∧
    (∀ c, s.seq = .running w (.reassembled (.fail c)) → exec (.request arg eot) s = .next (s.finish c .none)) ∧
    (s.seq = .running w (.reassembled .retry) →
      (arg = false → exec (.request arg eot) s = .next (s.finish .none .retryRequested)) ∧
      (arg = true → exec (.request arg eot) s = .next { s with seq := .running w (.busy .retry) })) ∧
    (s.seq = .running w (.reassembled .msg) →
      (¬ stray → exec (.request arg eot) s = .next (s.finish .none .message)) ∧
      (stray → exec (.request arg eot) s = .next { s with seq := .running w (.busy .deviceStatus) }))

/-- R218, R217: transient busy ends with RETRY_EXHAUSTED exactly when RETRY_LIMIT is not 0 and RETRY_COUNT has reached it,
with the OUTCOME of the last reply; else, after the backoff, RETRY_COUNT adds 1, saturating, and the stored stream is sent
again from its first packet. -/
def Obligations.RetryBoundAndCount : Prop :=
  ∀ (arg eot : Bool) (s : State) (w : Word),
    (∀ r, s.seq = .running w (.busy r) →
      (s.retryLimit ≠ 0 ∧ s.retryLimit.toNat ≤ s.retryCount.toNat →
        exec (.request arg eot) s =
          .next (s.finish .retryExhausted (if r = .deviceStatus then .message else .retryRequested))) ∧
      (s.retryLimit = 0 ∨ s.retryCount.toNat < s.retryLimit.toNat →
        exec (.request arg eot) s = .next { s with seq := .running w .backoffCheck })) ∧
    (s.seq = .running w .backingOff →
      exec (.request arg eot) s =
        .next { s with trace := s.trace ++ [.wait Config.params.ticksPerUnit], seq := .running w .countRetry }) ∧
    (s.seq = .running w .countRetry → ∃ t, exec (.request arg eot) s = .next t ∧
      t.retryCount.toNat = min (s.retryCount.toNat + 1) 0xFFFFFFFF ∧
      t = { s with retryCount := t.retryCount, seq := .running w (.transmit 0) })

/-- R224, for any number of retry-requested replies: REQUEST with ARG = 1 and ACK_EN = 0, over a Transport that answers
every Send OK and answers with the retry-requested streams `busy` and then the message stream `reply`, transmits the same
packets once more for each retry, waits one BACKOFF before each, commits the last reply, ends with ERR_CODE 0 and MESSAGE,
counts the retries in RETRY_COUNT, and advances FLIP once. -/
def Obligations.RequestRetriesUntilTheReply : Prop :=
  ∀ (eot : Bool) (s : State) (w : Word) (busy : List (List Bytes)) (reply : List Bytes) (cmd : Half) (data : Bytes)
    (sendRest : List SendAnswer) (recvRest : List RecvAnswer),
    decode w = .ok (.request true eot) → s.seq = .running w .start → s.connected = true → s.cancelPend = false →
    s.ackEn = false → s.txLength.toNat ≤ 988 →
    (s.retryLimit = 0 ∨ busy.length ≤ s.retryLimit.toNat) → busy.length ≤ 0xFFFFFFFF →
    (∀ bs ∈ busy, ∃ d, IsStream s.strict bs Config.params.cmdIdRetry d) →
    IsStream s.strict reply cmd data → cmd ≠ Config.params.cmdDbgMessage → cmd ≠ Config.params.cmdIdRetry →
    (cmd = Config.params.cmdDeviceStatus → s.txCommand = Config.params.cmdDeviceStatus) →
    s.sendAnswers = List.replicate ((busy.length + 1) * packetCount s.txLength.toNat) .ok ++ sendRest →
    s.recvAnswers = (busy.flatten ++ reply).map RecvAnswer.pkt ++ recvRest →
    ∃ (ps : List Bytes) (t : State),
      encodeStream s.txCommand s.txLength s.txPayload s.flip s.ackEn = some ps ∧
      RunsTo s t ∧ Ended w .none .message t ∧
      t.trace = s.trace ++
        (busy.flatMap fun bs =>
          sendEvents s.settle ps ++ recvEvents s.readTimeout bs ++ [.wait Config.params.ticksPerUnit]) ++
        (sendEvents s.settle ps ++ recvEvents s.readTimeout reply) ∧
      t.retryCount.toNat = busy.length ∧ t.flip = !s.flip ∧ t.rxCommand = cmd ∧ t.rxPayload = data ∧
      (∀ j, j < 16 → t.packet j = (ps[j]?).getD (List.replicate 64 0)) ∧
      (∀ a, inTx a = true ∨ inRef a = true → Memory.read t.mem a = Memory.read s.mem a) ∧
      t.connected = true ∧ SameHostSide s t ∧ t.dbgCount = s.dbgCount ∧ t.sendAnswers = sendRest ∧
      t.recvAnswers = recvRest

/-! ## The Session Handshake -/

/-- R241, R242: CONNECT on a live session ends with ALREADY_CONNECTED; with a probe of more than 58 bytes it ends with
PROBE_TOO_LARGE; neither changes anything but RESULT and the end of the command. Else it starts, with HS_ATTEMPTS 0. -/
def Obligations.ConnectChecksBeforeAnyTransportCall : Prop :=
  ∀ (s : State) (w : Word), s.seq = .running w .start →
    (s.hsState = .connected → exec .connect s = .next (s.finish .alreadyConnected .none)) ∧
    (s.hsState ≠ .connected → 58 < s.txLength.toNat → exec .connect s = .next (s.finish .probeTooLarge .none)) ∧
    (s.hsState ≠ .connected → s.txLength.toNat ≤ 58 →
      exec .connect s = .next { s with hsAttempts := 0, seq := .running w .enterHandshake })

/-- R243: ten marker Sends that all fail end CONNECT with LINK_DOWN, HS_STATE Failed and HS_ATTEMPTS 10, with a
Wait(BACKOFF) after each failed attempt but the tenth; FLIP, PKT, REF and the rest stay. -/
def Obligations.TenFailedMarkersAreLinkDown : Prop :=
  ∀ (s : State) (w : Word) (rest : List SendAnswer),
    decode w = .ok .connect → s.seq = .running w .start → s.hsState ≠ .connected → s.txLength.toNat ≤ 58 →
    s.cancelPend = false → s.sendAnswers = List.replicate 10 .err ++ rest →
    RunsTo s
      { s with hsState := .failed, hsAttempts := 10, sendAnswers := rest,
               trace := s.trace ++
                 ((List.replicate 9 [Event.send marker (some .err), .wait Config.params.ticksPerUnit]).flatten ++
                   [.send marker (some .err)]),
               errCode := .linkDown, outcome := .none, fatalCause := .none, lastOp := 0x07, done := true,
               cancelPend := false, seq := .idle }

/-- R256, R253, R243 to R252: CONNECT on a block without a session, with a probe of at most 58 bytes and no cancellation,
over a Transport that fails at most nine marker Sends and answers every other Send OK, and whose strings are, after some
that are no IOERR and no echo, the probe packet, and, after some more, the probe packet without its ack-request bit,
reaches Connected with CONNECTED = 1 and ERR_CODE 0. PKT holds the probe, REF the probe without the ack-request bit, and
FLIP is 1 exactly when the probe advances it. -/
def Obligations.ConnectReachesConnected : Prop :=
  ∀ (s : State) (w : Word) (k : Nat) (drain₁ drain₂ : List RecvAnswer) (sendRest : List SendAnswer)
    (recvRest : List RecvAnswer) (probe : Bytes),
    decode w = .ok .connect → s.seq = .running w .start → s.hsState ≠ .connected → s.txLength.toNat ≤ 58 →
    s.cancelPend = false → k ≤ 9 →
    encodeStream s.txCommand s.txLength s.txPayload false true = some [probe] →
    (∀ a ∈ drain₁, RecvAnswer.clip a ≠ .ioerr ∧ RecvAnswer.clip a ≠ .pkt probe) →
    (∀ a ∈ drain₂, RecvAnswer.clip a ≠ .ioerr ∧ RecvAnswer.clip a ≠ .pkt (clearAck (probe.getD 0 0) :: probe.tail)) →
    s.sendAnswers = List.replicate k .err ++ .ok :: .ok :: sendRest →
    s.recvAnswers =
      drain₁ ++ .pkt probe :: (drain₂ ++ .pkt (clearAck (probe.getD 0 0) :: probe.tail) :: recvRest) →
    ∃ t, RunsTo s t ∧ Ended w .none .none t ∧ t.connected = true ∧ t.hsState = .connected ∧
      t.flip = Config.params.probeAdvances ∧ t.hsAttempts.toNat = k + 1 ∧ t.pktCount = 1 ∧ t.packet 0 = probe ∧
      (∀ j, 1 ≤ j → j < 16 → t.packet j = List.replicate 64 0) ∧
      t.reference = clearAck (probe.getD 0 0) :: probe.tail ∧
      t.sendAnswers = sendRest ∧ t.recvAnswers = recvRest ∧ SameHostSide s t ∧
      (∀ a, inTx a = true ∨ inRx a = true → Memory.read t.mem a = Memory.read s.mem a) ∧
      t.rxHdr = s.rxHdr ∧ t.rxState = s.rxState ∧ t.retryCount = s.retryCount ∧ t.dbgCount = s.dbgCount ∧
      t.trace = s.trace ++
        ((List.replicate k [Event.send marker (some .err), .wait Config.params.ticksPerUnit]).flatten ++
          [.send marker (some .ok), .wait s.settle, .send probe (some .ok), .wait s.settle] ++
          drain₁.map (fun a => .recv s.hsTimeout (some (RecvAnswer.clip a))) ++
          [.recv s.hsTimeout (some (.pkt probe))] ++
          drain₂.map (fun a => .recv s.hsTimeout (some (RecvAnswer.clip a))) ++
          [.recv s.hsTimeout (some (.pkt (clearAck (probe.getD 0 0) :: probe.tail)))])

/-- R250, R254, R246: in either echo wait a string equal to all 64 bytes of REF goes on, any other string and a TIMEOUT
repeat the read, and IOERR sets HS_STATE to Failed and ends CONNECT with HANDSHAKE_ABORTED. The Send of the probe goes on
to its settling delay on OK, and on ERR it too sets HS_STATE to Failed and ends CONNECT with HANDSHAKE_ABORTED. -/
def Obligations.EchoMustEqualTheReference : Prop :=
  ∀ (s : State) (w : Word),
    (∀ aux : Bool, s.seq = .running w (if aux then .auxReceiving else .mainReceiving) →
      let after := s.received s.hsTimeout
      let again : State := { after with seq := .running w (if aux then .auxCheck else .mainCheck) }
      let failed : State := { after with hsState := .failed, seq := .running w (.finishing .handshakeAborted .none) }
      (∀ b, s.recvAnswer = .pkt b →
        (b.length = 64 ∧ (∀ j, j < 64 → b.getD j 0 = Memory.read s.mem (0x1400 + j)) →
          exec .connect s =
            .next { after with seq := .running w (if aux then .clearAckFlag else .enterConnected) }) ∧
        (b.length ≠ 64 ∨ (∃ j, j < 64 ∧ b.getD j 0 ≠ Memory.read s.mem (0x1400 + j)) → exec .connect s = .next again)) ∧
      (s.recvAnswer = .timeout → exec .connect s = .next again) ∧
      (s.recvAnswer = .ioerr → exec .connect s = .next failed ∧
        exec .connect failed = .next (failed.finish .handshakeAborted .none))) ∧
    (s.seq = .running w .probeSending →
      let after := s.sent (s.packet 0)
      let failed : State := { after with hsState := .failed, seq := .running w (.finishing .handshakeAborted .none) }
      (s.sendAnswer = .ok → exec .connect s = .next { after with seq := .running w .probeSettleCheck }) ∧
      (s.sendAnswer = .err → exec .connect s = .next failed ∧
        exec .connect failed = .next (failed.finish .handshakeAborted .none)))

/-- R251: after the auxiliary echo the ack-request bit of REF[0] is cleared, and no other bit of it, no other byte (PKT
included) and no register changes. -/
def Obligations.AuxiliaryEchoClearsTheAckFlagOfRef : Prop :=
  ∀ (s : State) (w : Word), s.seq = .running w .clearAckFlag →
    ∃ t, exec .connect s = .next t ∧
      (∀ j, j < 8 → (Memory.read t.mem 0x1400).getLsbD j =
        if j = 6 then false else (Memory.read s.mem 0x1400).getLsbD j) ∧
      SameMemoryOutside 0x1400 1 s t ∧ t = { s with mem := t.mem, seq := .running w .enterMainAck }

/-- R257: an echo wait has no bound: over a Transport that keeps answering TIMEOUT, CONNECT is still in the wait after any
number of reads, with nothing changed but the record of them. -/
def Obligations.EchoWaitHasNoBound : Prop :=
  ∀ (n : Nat) (s : State) (w : Word) (rest : List RecvAnswer),
    decode w = .ok .connect → (s.seq = .running w .auxCheck ∨ s.seq = .running w .mainCheck) → s.cancelPend = false →
    s.recvAnswers = List.replicate n .timeout ++ rest →
    sequencerRun (2 * n) s =
      .next { s with recvAnswers := rest, trace := s.trace ++ List.replicate n (.recv s.hsTimeout (some .timeout)) }

/-- R260, R261: DISCONNECT on a live session makes TDispose and then TReset, clears CONNECTED, HS_STATE and RX_STATE and
ends with ERR_CODE 0, FLIP and the rest unchanged; without a session it makes no Transport call and ends with
NOT_CONNECTED. -/
def Obligations.DisconnectReleasesTheSession : Prop :=
  ∀ (s : State) (w : Word), s.seq = .running w .start →
    (s.connected = false → exec .disconnect s = .next (s.finish .notConnected .none)) ∧
    (s.connected = true →
      exec .disconnect s = .next { s with trace := s.trace ++ [.tDispose], seq := .running w .transportReset } ∧
      (decode w = .ok .disconnect →
        RunsTo s { s with trace := s.trace ++ [.tDispose, .tReset], connected := false, hsState := .disconnected,
                          rxState := .awaitFirstPacket, errCode := .none, outcome := .none, fatalCause := .none,
                          lastOp := 0x08, cancelPend := false, done := true, seq := .idle }))

/-! ## Errors, the fatal state, cancellation -/

/-- R280, R281, R284, R287: at every position of its pseudocode a command's line answers a next state, in which the
command either goes on, with the same word and at a position of its own, RESULT and DONE untouched, or has ended:
SEQ idle, DONE 1, CANCEL_PEND 0, LAST_OP the low byte of the word, and an ERR_CODE that R281 lists for the command.
What one line is, is the model's choice (log 4). -/
def Obligations.EveryLineAnswersAndEveryEndIsRecorded : Prop :=
  ∀ (i : Instr) (s : State) (w : Word) (pos : Pos), s.seq = .running w pos → ownPos i pos = true →
    ∃ t, exec i s = .next t ∧
      ((∃ pos', t.seq = .running w pos' ∧ ownPos i pos' = true ∧ SameResult s t) ∨
        (t.seq = .idle ∧ t.done = true ∧ t.cancelPend = false ∧ t.lastOp = w.extractLsb' 0 8 ∧
          raises i t.errCode = true ∧ (t.errCode = .fatal ↔ t.fatalCause ≠ .none)))

/-- R286, R287: only a failed Recv or Send under EOT = 1 in CONSUME, REQUEST or SEND_ONLY enters the fatal state, and
fatal entry writes RESULT, FATAL, CONNECTED, HS_STATE, RX_STATE, CANCEL_PEND, DONE and SEQ as R287 says, with no Transport
call of its own: the one event of the step is the failed call. -/
def Obligations.FatalEntryOnlyUnderExitOnTimeout : Prop :=
  ∀ (i : Instr) (s t : State) (w : Word) (pos : Pos), s.seq = .running w pos → s.fatal = false →
    exec i s = .next t → t.fatal = true →
    (i = .consume true ∨ (∃ arg, i = .request arg true) ∨ i = .sendOnly true) ∧
    (∃ cause, cause ≠ .none ∧
      ((∃ j, pos = .sending j ∧ s.sendAnswer = .err ∧ cause = .txErr ∧
          t = (s.sent (s.packet j)).raiseFatal cause) ∨
        ((pos = .receiving ∨ pos = .ackReceiving) ∧
          ((s.recvAnswer = .timeout ∧ cause = .rxTimeout) ∨ (s.recvAnswer = .ioerr ∧ cause = .rxIoErr)) ∧
          t = (s.received s.readTimeout).raiseFatal cause))) ∧
    t.errCode = .fatal ∧ t.outcome = .none ∧ t.lastOp = w.extractLsb' 0 8 ∧ t.connected = false ∧
    t.hsState = .disconnected ∧ t.rxState = .awaitFirstPacket ∧ t.cancelPend = false ∧ t.done = true ∧ t.seq = .idle

/-- R288: in the fatal state (which is idle, R287) any step but a reset leaves everything of the block as it is, but
for the W1C bits of STATUS: no command starts, no register or byte changes, no Transport call is made, and ABORT is
ignored. The turns, the draws and the bus reads are the model's own fields (log 6, 7, 8). -/
def Obligations.FatalStateIsSticky : Prop :=
  ∀ s t : State, s.fatal = true → s.seq = .idle → s.nextTurn ≠ .reset → step s = .next t →
    t = { s with done := t.done, ovr := t.ovr, turns := t.turns, draws := t.draws, busReads := t.busReads } ∧
    (t.done = true → s.done = true)

/-- R301, R302: at each cancel point a pending cancellation ends the command with CANCELLED before the call or wait that
follows: in CONNECT HS_STATE first becomes Failed, in a running Reassemble RX_STATE first becomes AwaitFirstPacket, and
the next line is finish(CANCELLED, NONE); elsewhere the finish comes at once. Nothing else is undone. -/
def Obligations.CancelPointsEndTheCommand : Prop :=
  ∀ (s : State) (w : Word) (pos : Pos), s.seq = .running w pos → s.cancelPend = true →
    (∀ i, ((∃ eot, i = .consume eot) ∨ ∃ arg eot, i = .request arg eot) → pos = .rxCheck →
      exec i s = .next { s with rxState := .awaitFirstPacket, seq := .running w (.finishing .cancelled .none) }) ∧
    (∀ i, ((∃ arg eot, i = .request arg eot) ∨ ∃ eot, i = .sendOnly eot) →
      ((∃ j, pos = .transmit j ∧ j < s.pktCount.toNat) ∨ ∃ j, pos = .settleCheck j) →
      exec i s = .next (s.finish .cancelled .none)) ∧
    (∀ arg eot, pos = .ackCheck ∨ pos = .backoffCheck →
      exec (.request arg eot) s = .next (s.finish .cancelled .none)) ∧
    (pos ∈ [Pos.markerCheck, .markerBackoffCheck, .markerSettleCheck, .probeCheck, .probeSettleCheck, .auxCheck,
        .mainCheck] →
      exec .connect s = .next { s with hsState := .failed, seq := .running w (.finishing .cancelled .none) }) ∧
    (∀ i, ((∃ eot, i = .consume eot) ∨ (∃ arg eot, i = .request arg eot) ∨ i = .connect) →
      pos = .finishing .cancelled .none → exec i s = .next (s.finish .cancelled .none))

/-! ## The whole machine -/

/-- The invariant holds at reset. The scratch's reset value is the model's choice (log 12). -/
def Obligations.InvariantHoldsAtReset : Prop := State.reset.Inv

/-- Every step keeps the invariant: the buffers stay in canonical form and inside the window's buffers, CONNECTED =
1 exactly when HS_STATE = Connected (R25), DONE and CANCEL_PEND agree with BUSY (R24, R49), the fatal state is idle,
disconnected and the only one with a FATAL_CAUSE (R27, R287), PKT_COUNT, HS_ATTEMPTS and the scratch stay in their
bounds (R34, R42, R163), and SEQ holds a legal command at a position of its own that agrees with HS_STATE, RX_STATE,
CONNECTED and the counters (R47). The positions are the model's (log 4), and so are the scratch's bounds before any
reassembly (log 12). -/
def Obligations.EveryStepKeepsTheInvariant : Prop :=
  ∀ s t : State, s.Inv → step s = .next t → t.Inv

/-- From a state with the invariant the only stop is the bus error of a forbidden host access (R64, R280): no step
is refused, and no command ends a run. That a bus error ends the run is the model's choice (log 10), and
`outOfSequence` is the model's own fault (log 15). -/
def Obligations.OnlyABusErrorStopsTheMachine : Prop :=
  ∀ s : State, s.Inv →
    (∃ t, step s = .next t) ∨
    (step s = .fault .busError ∧ ∃ width off,
      (s.nextTurn = .host (.read width off) ∨ ∃ v, s.nextTurn = .host (.write width off v)) ∧
      permitted width off = false)

/-- R54, R66: no command writes CTRL, TX_HDR, RETRY_LIMIT, READ_TIMEOUT, HS_TIMEOUT, SETTLE or OVR, or a byte of
TX_DATA. The queue of turns and the bus reads, which no command touches either, are the model's own (log 6, 8). -/
def Obligations.CommandsKeepTheHostsConfiguration : Prop :=
  ∀ (i : Instr) (s t : State), exec i s = .next t →
    SameHostSide s t ∧ ∀ a, inTx a = true → Memory.read t.mem a = Memory.read s.mem a

/-- R24, R25, R26, R33, R34, R35, R41, R42, R45, R46: each register and buffer that commands write changes only in the
commands that its rule names: RX_HDR, RX_DATA and DBG_COUNT in CONSUME and REQUEST; PKT and PKT_INFO in ENCODE, REQUEST,
SEND_ONLY and CONNECT; REF and HS_ATTEMPTS in CONNECT; RETRY_COUNT in REQUEST; FLIP in ADVANCE, RESET_FLIP, REQUEST,
SEND_ONLY and CONNECT; HS_STATE and CONNECTED in CONNECT, DISCONNECT and fatal entry; RX_STATE in CONSUME, REQUEST,
DISCONNECT and fatal entry; FATAL in CONSUME, REQUEST and SEND_ONLY; and RESULT, DONE and CANCEL_PEND only where the
command ends. -/
def Obligations.EachRegisterHasOnlyItsWriters : Prop :=
  ∀ (i : Instr) (s t : State), exec i s = .next t →
    (((∀ eot, i ≠ .consume eot) ∧ ∀ arg eot, i ≠ .request arg eot) →
      t.rxHdr = s.rxHdr ∧ t.dbgCount = s.dbgCount ∧
        ∀ a, inRx a = true → Memory.read t.mem a = Memory.read s.mem a) ∧
    (((∃ eot, i = .consume eot) ∨ i = .advance ∨ (∃ arg, i = .resetFlip arg) ∨ i = .disconnect) →
      t.pktCount = s.pktCount ∧ ∀ a, inPkt a = true → Memory.read t.mem a = Memory.read s.mem a) ∧
    (i ≠ .connect → t.hsAttempts = s.hsAttempts ∧ ∀ a, inRef a = true → Memory.read t.mem a = Memory.read s.mem a) ∧
    ((∀ arg eot, i ≠ .request arg eot) → t.retryCount = s.retryCount) ∧
    (i = .encode ∨ (∃ eot, i = .consume eot) ∨ i = .disconnect → t.flip = s.flip) ∧
    (i ≠ .connect → i ≠ .disconnect → t.fatal = false → t.hsState = s.hsState ∧ t.connected = s.connected) ∧
    (((∀ eot, i ≠ .consume eot) ∧ (∀ arg eot, i ≠ .request arg eot) ∧ i ≠ .disconnect) → t.fatal = false →
      t.rxState = s.rxState) ∧
    (((∀ eot, i ≠ .consume eot) ∧ (∀ arg eot, i ≠ .request arg eot) ∧ ∀ eot, i ≠ .sendOnly eot) →
      t.fatal = s.fatal) ∧
    (t.seq ≠ .idle → SameResult s t)

/-- R75, R341: a line of a command makes at most one event, and where a Transport call is in progress it is that
call's, with the Transport's answer. What one line is, and the record of events, are the model's choice (log 4, 7,
8). -/
def Obligations.AtMostOneEventAStep : Prop :=
  ∀ (i : Instr) (s t : State), exec i s = .next t →
    (∃ es : List Event, t.trace = s.trace ++ es ∧ es.length ≤ 1) ∧
    (∀ b, s.pendingCall = some (.send b) → t.trace = s.trace ++ [.send b (some s.sendAnswer)]) ∧
    (∀ x, s.pendingCall = some (.recv x) → t.trace = s.trace ++ [.recv x (some s.recvAnswer)])

/-- R253, R24: over one step CONNECTED becomes 1 only by CONNECT's last handshake line, and becomes 0 only by
DISCONNECT, fatal entry or a reset. CONNECTED and HS_STATE change in one step (log 5). -/
def Obligations.ConnectedChangesOnlyInItsRules : Prop :=
  ∀ s t : State, s.Inv → step s = .next t →
    (s.connected = false → t.connected = true →
      ∃ w, decode w = .ok .connect ∧ s.seq = .running w .enterConnected) ∧
    (s.connected = true → t.connected = false →
      s.nextTurn = .reset ∨ t.fatal = true ∨ ∃ w, decode w = .ok .disconnect ∧ s.seq = .running w .leaveConnected)
end

