-- ==== Sys2Proof/Laws/Memory.lean ====
section
/-! SUPPORT. The laws of the buffers' memory: what a write reads back as, that every write keeps the canonical form, and
that the canonical form makes equal memories equal data. -/

namespace Sys2Proof.Machine

theorem Memory.read_nil (a : Nat) : Memory.read [] a = 0 := rfl

theorem Memory.read_cons (c : Host.Cell) (m : Memory) (a : Nat) :
    Memory.read (c :: m) a = if a = c.1 then c.2 else Memory.read m a := by
  unfold Memory.read
  rw [List.lookup_cons]
  by_cases h : a = c.1
  · simp [h]
  · simp [h, beq_eq_false_iff_ne.2 h]

theorem Memory.read_append_of_forall_ne (m₁ m₂ : Memory) (a : Nat) (h : ∀ c ∈ m₁, c.1 ≠ a) :
    Memory.read (m₁ ++ m₂) a = Memory.read m₂ a := by
  induction m₁ with
  | nil => rfl
  | cons c m ih =>
    have hc := h c (by simp)
    rw [List.cons_append, Memory.read_cons, if_neg (fun e => hc e.symm), ih fun d hd => h d (by simp [hd])]

theorem Memory.read_of_forall_ne (m : Memory) (a : Nat) (h : ∀ c ∈ m, c.1 ≠ a) : Memory.read m a = 0 := by
  have := Memory.read_append_of_forall_ne m [] a h
  simpa [Memory.read_nil] using this

/-- A filter by offset does not change what a kept offset reads as, whatever follows. -/
theorem Memory.read_filter_append (p : Nat → Bool) (m m₂ : Memory) (a : Nat) (ha : p a = true)
    (h₂ : ∀ c ∈ m₂, c.1 ≠ a) : Memory.read (m.filter (fun c => p c.1) ++ m₂) a = Memory.read m a := by
  induction m with
  | nil => simpa [Memory.read_nil] using Memory.read_of_forall_ne m₂ a h₂
  | cons c m ih =>
    by_cases hc : p c.1 = true
    · simp only [List.filter_cons, hc, if_true, List.cons_append, Memory.read_cons, ih]
    · have : a ≠ c.1 := fun e => hc (e ▸ ha)
      simp only [List.filter_cons, hc, Memory.read_cons, if_neg this]
      simpa using ih

theorem Memory.fst_mem_cells {base : Nat} {bs : Bytes} {c : Host.Cell} (h : c ∈ Memory.cells base bs) :
    base ≤ c.1 ∧ c.1 < base + bs.length := by
  induction bs generalizing base with
  | nil => simp [Memory.cells] at h
  | cons b bs ih =>
    rw [Memory.cells] at h
    split at h
    · have := ih h
      simp only [List.length_cons]; omega
    · rcases List.mem_cons.1 h with rfl | h
      · simp
      · have := ih h
        simp only [List.length_cons]; omega

theorem Memory.read_cells (base : Nat) (bs : Bytes) (a : Nat) :
    Memory.read (Memory.cells base bs) a = if base ≤ a ∧ a < base + bs.length then bs.getD (a - base) 0 else 0 := by
  induction bs generalizing base with
  | nil => simp [Memory.cells, Memory.read_nil]
  | cons b bs ih =>
    rw [Memory.cells]
    by_cases hb : b = 0
    · rw [if_pos hb, ih]
      by_cases h1 : a = base
      · subst h1 hb; simp
      · by_cases h2 : base + 1 ≤ a ∧ a < base + 1 + bs.length
        · rw [if_pos h2, if_pos (by simp only [List.length_cons]; omega)]
          obtain ⟨n, hn⟩ : ∃ n, a - base = n + 1 := ⟨a - base - 1, by omega⟩
          rw [hn, List.getD_cons_succ, show a - (base + 1) = n by omega]
        · rw [if_neg h2, if_neg (by simp only [List.length_cons]; omega)]
    · rw [if_neg hb, Memory.read_cons, ih]
      by_cases h1 : a = base
      · subst h1; simp
      · simp only [if_neg h1]
        by_cases h2 : base + 1 ≤ a ∧ a < base + 1 + bs.length
        · rw [if_pos h2, if_pos (by simp only [List.length_cons]; omega)]
          obtain ⟨n, hn⟩ : ∃ n, a - base = n + 1 := ⟨a - base - 1, by omega⟩
          rw [hn, List.getD_cons_succ, show a - (base + 1) = n by omega]
        · rw [if_neg h2, if_neg (by simp only [List.length_cons]; omega)]

/-- Every byte after a write: a stored one inside the range, the old one outside. -/
theorem Memory.read_writeRange (m : Memory) (base : Nat) (bs : Bytes) (a : Nat) :
    Memory.read (Memory.writeRange m base bs) a =
      if base ≤ a ∧ a < base + bs.length then bs.getD (a - base) 0 else Memory.read m a := by
  unfold Memory.writeRange
  by_cases h1 : a < base
  · rw [if_neg (by omega), List.append_assoc]
    refine Memory.read_filter_append (fun x => decide (x < base)) m _ a (by simpa) ?_
    intro c hc
    rcases List.mem_append.1 hc with hc | hc
    · have := Memory.fst_mem_cells hc; omega
    · have := (List.mem_filter.1 hc).2
      simp only [decide_eq_true_eq] at this; omega
  · rw [List.append_assoc, Memory.read_append_of_forall_ne]
    swap
    · intro c hc
      have := (List.mem_filter.1 hc).2
      simp only [decide_eq_true_eq] at this; omega
    by_cases h2 : a < base + bs.length
    · rw [if_pos ⟨by omega, h2⟩]
      have := Memory.read_cells base bs a
      rw [if_pos ⟨by omega, h2⟩] at this
      rw [← this]
      clear this
      generalize hm : Memory.cells base bs = cs
      clear hm
      induction cs with
      | nil =>
        rw [List.nil_append, Memory.read_nil]
        refine Memory.read_of_forall_ne _ _ ?_
        intro c hc
        have := (List.mem_filter.1 hc).2
        simp only [decide_eq_true_eq] at this; omega
      | cons c cs ih => rw [List.cons_append, Memory.read_cons, Memory.read_cons, ih]
    · rw [if_neg (by omega), Memory.read_append_of_forall_ne]
      · have := Memory.read_filter_append (fun x => decide (base + bs.length ≤ x)) m [] a (by simp; omega) (by simp)
        simpa using this
      · intro c hc
        have := Memory.fst_mem_cells hc; omega

theorem Memory.cells_wf (base : Nat) (bs : Bytes) : Memory.wf (Memory.cells base bs) := by
  induction bs generalizing base with
  | nil => simp [Memory.cells, Memory.wf]
  | cons b bs ih =>
    rw [Memory.cells]
    split
    · exact ih _
    · rename_i hb
      refine ⟨List.pairwise_cons.2 ⟨fun c hc => ?_, (ih _).1⟩, ?_⟩
      · have := Memory.fst_mem_cells hc
        simp only; omega
      · intro c hc
        rcases List.mem_cons.1 hc with rfl | hc
        · exact hb
        · exact (ih _).2 c hc

/-- Every write keeps the canonical form. -/
theorem Memory.writeRange_wf {m : Memory} (h : Memory.wf m) (base : Nat) (bs : Bytes) :
    Memory.wf (Memory.writeRange m base bs) := by
  unfold Memory.writeRange
  refine ⟨?_, ?_⟩
  · refine List.pairwise_append.2 ⟨List.pairwise_append.2 ⟨h.1.filter _, (Memory.cells_wf _ _).1, ?_⟩, h.1.filter _, ?_⟩
    · intro c hc d hd
      have h1 := (List.mem_filter.1 hc).2
      have h2 := Memory.fst_mem_cells hd
      simp only [decide_eq_true_eq] at h1; omega
    · intro c hc d hd
      have h2 := (List.mem_filter.1 hd).2
      simp only [decide_eq_true_eq] at h2
      rcases List.mem_append.1 hc with hc | hc
      · have h1 := (List.mem_filter.1 hc).2
        simp only [decide_eq_true_eq] at h1; omega
      · have h1 := Memory.fst_mem_cells hc; omega
  · intro c hc
    rcases List.mem_append.1 hc with hc | hc
    · rcases List.mem_append.1 hc with hc | hc
      · exact h.2 c (List.mem_filter.1 hc).1
      · exact (Memory.cells_wf base bs).2 c hc
    · exact h.2 c (List.mem_filter.1 hc).1

/-- The memory at reset lists nothing, so it is in canonical form. -/
theorem State.reset_mem_wf : Memory.wf State.reset.mem := ⟨List.Pairwise.nil, fun _ h => absurd h List.not_mem_nil⟩

/-- A write lists no offset outside its range that was not listed before. -/
theorem Memory.mem_writeRange {m : Memory} {base : Nat} {bs : Bytes} {c : Host.Cell}
    (h : c ∈ Memory.writeRange m base bs) : c ∈ m ∨ (base ≤ c.1 ∧ c.1 < base + bs.length) := by
  unfold Memory.writeRange at h
  rcases List.mem_append.1 h with h | h
  · rcases List.mem_append.1 h with h | h
    · exact .inl (List.mem_filter.1 h).1
    · exact .inr (Memory.fst_mem_cells h)
  · exact .inl (List.mem_filter.1 h).1

/-- A listed cell of a canonical memory reads as itself. -/
theorem Memory.read_of_mem {m : Memory} (h : Memory.wf m) {c : Host.Cell} (hc : c ∈ m) :
    Memory.read m c.1 = c.2 := by
  obtain ⟨hp, -⟩ := h
  induction m with
  | nil => simp at hc
  | cons d m ih =>
    rw [Memory.read_cons]
    rcases List.mem_cons.1 hc with rfl | hc
    · simp
    · have hlt := (List.pairwise_cons.1 hp).1 c hc
      rw [if_neg (by omega)]
      exact ih hc (List.pairwise_cons.1 hp).2

@[simp] theorem Memory.length_readRange (m : Memory) (base n : Nat) : (Memory.readRange m base n).length = n := by
  simp [Memory.readRange]

theorem Memory.getElem_readRange (m : Memory) (base n i : Nat) (h : i < (Memory.readRange m base n).length) :
    (Memory.readRange m base n)[i] = Memory.read m (base + i) := by
  simp [Memory.readRange]

/-- A range reads alike in memories that agree on it. -/
theorem Memory.readRange_congr {m m' : Memory} {base n : Nat}
    (h : ∀ a, base ≤ a → a < base + n → Memory.read m a = Memory.read m' a) :
    Memory.readRange m base n = Memory.readRange m' base n := by
  unfold Memory.readRange
  refine List.map_congr_left fun i hi => ?_
  exact h _ (by omega) (by have := List.mem_range.1 hi; omega)

/-- The bytes of a write read back whole. -/
theorem Memory.readRange_writeRange_self (m : Memory) (base : Nat) (bs : Bytes) :
    Memory.readRange (Memory.writeRange m base bs) base bs.length = bs := by
  refine List.ext_getElem (by simp) fun i h1 h2 => ?_
  rw [Memory.getElem_readRange, Memory.read_writeRange, if_pos ⟨by omega, by omega⟩]
  simp [List.getD_eq_getElem?_getD, h2]

/-- A part of a write's bytes reads back. -/
theorem Memory.readRange_writeRange_part (m : Memory) (base : Nat) (bs : Bytes) (k n : Nat) (h : k + n ≤ bs.length) :
    Memory.readRange (Memory.writeRange m base bs) (base + k) n = (bs.drop k).take n := by
  refine List.ext_getElem (by simp; omega) fun i h1 h2 => ?_
  rw [Memory.getElem_readRange, Memory.read_writeRange]
  simp only [Memory.length_readRange] at h1
  rw [if_pos ⟨by omega, by omega⟩]
  have : base + k + i - base = k + i := by omega
  rw [this, List.getElem_take, List.getElem_drop, List.getD_eq_getElem?_getD,
    List.getElem?_eq_getElem (by omega), Option.getD_some]

/-- A range outside a write reads as before. -/
theorem Memory.readRange_writeRange_frame (m : Memory) (base : Nat) (bs : Bytes) (b n : Nat)
    (h : b + n ≤ base ∨ base + bs.length ≤ b) :
    Memory.readRange (Memory.writeRange m base bs) b n = Memory.readRange m b n := by
  refine Memory.readRange_congr fun a h1 h2 => ?_
  rw [Memory.read_writeRange, if_neg (by omega)]

end Sys2Proof.Machine
end

