-- ==== Sys2Proof/Laws/Packets.lean ====
section
/-! SUPPORT. The laws of the packet bytes: what each field of a byte the codec makes reads back as, the lengths of what the
codec makes, and the shape of an encoded stream. -/

namespace Sys2Proof.Machine

/-! ## Fields -/

theorem extractLsb'_append_right {a b : Nat} (x : BitVec a) (y : BitVec b) : (x ++ y).extractLsb' 0 b = y := by
  refine BitVec.eq_of_getLsbD_eq fun i hi => ?_
  simp [BitVec.getLsbD_append, hi]

theorem extractLsb'_append_left {a b : Nat} (x : BitVec a) (y : BitVec b) : (x ++ y).extractLsb' b a = x := by
  refine BitVec.eq_of_getLsbD_eq fun i hi => ?_
  simp [BitVec.getLsbD_append, hi]

theorem plenOf_controlByte (f a : Bool) {n : Nat} (h : n < 64) : plenOf (controlByte f a n) = n := by
  unfold plenOf controlByte
  rw [extractLsb'_append_right, BitVec.toNat_ofNat, Nat.mod_eq_of_lt h]

theorem controlByte_flip (f a : Bool) (n : Nat) : (controlByte f a n).getLsbD 7 = f := by
  unfold controlByte
  generalize BitVec.ofNat 6 n = x
  revert f a x; decide

theorem controlByte_ack (f a : Bool) (n : Nat) : (controlByte f a n).getLsbD 6 = a := by
  unfold controlByte
  generalize BitVec.ofNat 6 n = x
  revert f a x; decide

/-- Clearing the ack-request bit gives the control byte of the same packet without it. -/
theorem clearAck_controlByte (f a : Bool) (n : Nat) : clearAck (controlByte f a n) = controlByte f false n := by
  unfold clearAck controlByte
  generalize BitVec.ofNat 6 n = x
  revert f a x; decide

theorem plenOf_lt (b : Byte) : plenOf b < 64 := (b.extractLsb' 0 6).isLt

theorem idxOf_indexByte (i t : Nat) : idxOf (indexByte i t) = BitVec.ofNat 4 i := extractLsb'_append_left _ _

theorem totOf_indexByte (i t : Nat) : totOf (indexByte i t) = BitVec.ofNat 4 t := extractLsb'_append_right _ _

theorem append_extractLsb' (v : Half) : v.extractLsb' 8 8 ++ v.extractLsb' 0 8 = v := by
  refine BitVec.eq_of_getLsbD_eq fun i hi => ?_
  rw [BitVec.getLsbD_append]
  by_cases h : i < 8
  · simp [h]
  · have h8 : 8 + (i - 8) = i := by omega
    simp only [h, BitVec.getLsbD_extractLsb', h8]
    simp; omega

/-- `LE16` reads back what `le16` wrote. -/
theorem leHalf_le16 (v : Half) (r : Bytes) : leHalf (le16 v ++ r) 0 = v := append_extractLsb' v

theorem leHalf_drop (s : Bytes) (n i : Nat) : leHalf (s.drop n) i = leHalf s (n + i) := by
  unfold leHalf
  simp [List.getD_eq_getElem?_getD, Nat.add_assoc]

/-! ## Lengths -/

@[simp] theorem length_zeros (k : Nat) : (zeros k).length = k := by simp [zeros]

@[simp] theorem length_padTo (n : Nat) (bs : Bytes) : (padTo n bs).length = n := by simp [padTo]

@[simp] theorem length_marker : marker.length = 64 := by simp [marker]

@[simp] theorem length_le16 (v : Half) : (le16 v).length = 2 := rfl

theorem getD_padTo (n : Nat) (bs : Bytes) {j : Nat} (h : j < n) : (padTo n bs).getD j 0 = bs.getD j 0 := by
  unfold padTo zeros
  simp only [List.getD_eq_getElem?_getD, List.getElem?_take, h, if_true, List.getElem?_append]
  split
  · rfl
  · rename_i hj
    rw [List.getElem?_eq_none (l := bs) (by omega)]
    simp only [List.getElem?_replicate]
    split <;> rfl

theorem length_serialize {cmd len : Half} {data : Bytes} (h : len.toNat ≤ data.length) :
    (serialize cmd len data).length = 4 + len.toNat := by
  simp [serialize]; omega

theorem length_framePacket (flip ack : Bool) (n i : Nat) {chunk : Bytes} (h : chunk.length ≤ 62) :
    (framePacket flip ack n i chunk).length = 64 := by
  simp [framePacket, Config.payloadMax]; omega

theorem length_chunkOf_le (s : Bytes) (i : Nat) : (chunkOf s i).length ≤ 62 := by
  simp [chunkOf]

theorem length_chunkOf (s : Bytes) (i : Nat) : (chunkOf s i).length = min 62 (s.length - 62 * i) := by
  simp [chunkOf]

/-! ## Streams -/

theorem packetCount_eq (len : Nat) : packetCount len = (len + 65) / 62 := by
  unfold packetCount; simp only [Config.subHdr, Config.payloadMax]; congr 1; omega

/-- What EncodeStream makes of a message that fits. -/
theorem encodeStream_eq_some {cmd len : Half} {data : Bytes} {flip ack : Bool} {ps : List Bytes}
    (h : encodeStream cmd len data flip ack = some ps) :
    packetCount len.toNat ≤ 16 ∧ len.toNat ≤ 988 ∧
    ps = (List.range (packetCount len.toNat)).map fun i =>
      framePacket flip ack (packetCount len.toNat) i (chunkOf (serialize cmd len data) i) := by
  unfold encodeStream at h
  simp only [Config.pktMax] at h
  split at h
  · cases h
  · rename_i hn
    refine ⟨by omega, ?_, by simpa using h.symm⟩
    rw [packetCount_eq] at hn; omega

theorem encodeStream_of_le (cmd : Half) {len : Half} (data : Bytes) (flip ack : Bool) (h : len.toNat ≤ 988) :
    encodeStream cmd len data flip ack = some ((List.range (packetCount len.toNat)).map fun i =>
      framePacket flip ack (packetCount len.toNat) i (chunkOf (serialize cmd len data) i)) := by
  unfold encodeStream
  simp only [Config.pktMax]
  rw [if_neg]
  rw [packetCount_eq]; omega

theorem encodeStream_length {cmd len : Half} {data : Bytes} {flip ack : Bool} {ps : List Bytes}
    (h : encodeStream cmd len data flip ack = some ps) :
    ps.length = packetCount len.toNat ∧ 1 ≤ ps.length ∧ ps.length ≤ 16 ∧ ∀ q ∈ ps, q.length = 64 := by
  obtain ⟨h16, -, rfl⟩ := encodeStream_eq_some h
  refine ⟨by simp, by simp [packetCount_eq]; omega, by simpa using h16, ?_⟩
  intro q hq
  obtain ⟨i, -, rfl⟩ := List.mem_map.1 hq
  exact length_framePacket _ _ _ _ (length_chunkOf_le _ _)

/-- The `i`-th of packets of 64 bytes, laid end to end and filled with zeros. -/
theorem packet_of_flatten (ps : List Bytes) (hl : ∀ q ∈ ps, q.length = 64) (hn : ps.length ≤ 16) {i : Nat}
    (hi : i < 16) :
    ((padTo 1024 ps.flatten).drop (64 * i)).take 64 = (ps[i]?).getD (List.replicate 64 0) := by
  induction ps generalizing i with
  | nil =>
    simp only [padTo, zeros, List.flatten_nil, List.nil_append, List.take_replicate, List.drop_replicate,
      List.getElem?_nil, Option.getD_none]
    congr 1; omega
  | cons q qs ih =>
    have hq : q.length = 64 := hl q (by simp)
    have hqs : ∀ r ∈ qs, r.length = 64 := fun r hr => hl r (by simp [hr])
    have hfl : ∀ rs : List Bytes, (∀ r ∈ rs, r.length = 64) → rs.flatten.length = 64 * rs.length := by
      intro rs hrs
      induction rs with
      | nil => rfl
      | cons r rs ihr =>
        rw [List.flatten_cons, List.length_append, ihr fun x hx => hrs x (by simp [hx]), hrs r (by simp),
          List.length_cons]; omega
    simp only [List.length_cons] at hn
    have hlen := hfl qs hqs
    cases i with
    | zero =>
      simp only [padTo, List.flatten_cons, Nat.mul_zero, List.drop_zero, List.take_take, List.getElem?_cons_zero,
        Option.getD_some, List.append_assoc]
      rw [show min 64 1024 = 64 from rfl, List.take_append_of_le_length (by omega), List.take_of_length_le (by omega)]
    | succ i =>
      have := ih hqs (by omega) (i := i) (by omega)
      rw [List.getElem?_cons_succ, ← this]
      refine List.ext_getElem? fun j => ?_
      simp only [List.getElem?_take, padTo, List.flatten_cons, List.getElem?_drop]
      by_cases hj : j < 64
      · simp only [hj, if_true]
        rw [if_pos (by omega), if_pos (by omega), List.append_assoc, List.getElem?_append_right (by omega)]
        rw [show 64 * (i + 1) + j - q.length = 64 * i + j by omega]
      · simp [hj]

end Sys2Proof.Machine
end

