-- ==== Sys2Proof/Laws/State.lean ====
section
/-! SUPPORT. One lemma per field of State per shared update, true by rfl: what the update makes of the field. -/

namespace Sys2Proof.Machine

/-! ## State.goto -/

@[simp] theorem State.goto_ackEn (pos : Pos) (s : State) : (s.goto pos).ackEn = s.ackEn := rfl
@[simp] theorem State.goto_strict (pos : Pos) (s : State) : (s.goto pos).strict = s.strict := rfl
@[simp] theorem State.goto_ieDone (pos : Pos) (s : State) : (s.goto pos).ieDone = s.ieDone := rfl
@[simp] theorem State.goto_ieFatal (pos : Pos) (s : State) : (s.goto pos).ieFatal = s.ieFatal := rfl
@[simp] theorem State.goto_done (pos : Pos) (s : State) : (s.goto pos).done = s.done := rfl
@[simp] theorem State.goto_connected (pos : Pos) (s : State) : (s.goto pos).connected = s.connected := rfl
@[simp] theorem State.goto_flip (pos : Pos) (s : State) : (s.goto pos).flip = s.flip := rfl
@[simp] theorem State.goto_fatal (pos : Pos) (s : State) : (s.goto pos).fatal = s.fatal := rfl
@[simp] theorem State.goto_ovr (pos : Pos) (s : State) : (s.goto pos).ovr = s.ovr := rfl
@[simp] theorem State.goto_hsState (pos : Pos) (s : State) : (s.goto pos).hsState = s.hsState := rfl
@[simp] theorem State.goto_rxState (pos : Pos) (s : State) : (s.goto pos).rxState = s.rxState := rfl
@[simp] theorem State.goto_errCode (pos : Pos) (s : State) : (s.goto pos).errCode = s.errCode := rfl
@[simp] theorem State.goto_outcome (pos : Pos) (s : State) : (s.goto pos).outcome = s.outcome := rfl
@[simp] theorem State.goto_fatalCause (pos : Pos) (s : State) : (s.goto pos).fatalCause = s.fatalCause := rfl
@[simp] theorem State.goto_lastOp (pos : Pos) (s : State) : (s.goto pos).lastOp = s.lastOp := rfl
@[simp] theorem State.goto_txHdr (pos : Pos) (s : State) : (s.goto pos).txHdr = s.txHdr := rfl
@[simp] theorem State.goto_rxHdr (pos : Pos) (s : State) : (s.goto pos).rxHdr = s.rxHdr := rfl
@[simp] theorem State.goto_pktCount (pos : Pos) (s : State) : (s.goto pos).pktCount = s.pktCount := rfl
@[simp] theorem State.goto_retryCount (pos : Pos) (s : State) : (s.goto pos).retryCount = s.retryCount := rfl
@[simp] theorem State.goto_retryLimit (pos : Pos) (s : State) : (s.goto pos).retryLimit = s.retryLimit := rfl
@[simp] theorem State.goto_readTimeout (pos : Pos) (s : State) : (s.goto pos).readTimeout = s.readTimeout := rfl
@[simp] theorem State.goto_hsTimeout (pos : Pos) (s : State) : (s.goto pos).hsTimeout = s.hsTimeout := rfl
@[simp] theorem State.goto_settle (pos : Pos) (s : State) : (s.goto pos).settle = s.settle := rfl
@[simp] theorem State.goto_dbgCount (pos : Pos) (s : State) : (s.goto pos).dbgCount = s.dbgCount := rfl
@[simp] theorem State.goto_hsAttempts (pos : Pos) (s : State) : (s.goto pos).hsAttempts = s.hsAttempts := rfl
@[simp] theorem State.goto_mem (pos : Pos) (s : State) : (s.goto pos).mem = s.mem := rfl
@[simp] theorem State.goto_seq (pos : Pos) (s : State) : (s.goto pos).seq = s.seq.goto pos := rfl
@[simp] theorem State.goto_cmd0 (pos : Pos) (s : State) : (s.goto pos).cmd0 = s.cmd0 := rfl
@[simp] theorem State.goto_scratch (pos : Pos) (s : State) : (s.goto pos).scratch = s.scratch := rfl
@[simp] theorem State.goto_cancelPend (pos : Pos) (s : State) : (s.goto pos).cancelPend = s.cancelPend := rfl
@[simp] theorem State.goto_turns (pos : Pos) (s : State) : (s.goto pos).turns = s.turns := rfl
@[simp] theorem State.goto_sendAnswers (pos : Pos) (s : State) : (s.goto pos).sendAnswers = s.sendAnswers := rfl
@[simp] theorem State.goto_recvAnswers (pos : Pos) (s : State) : (s.goto pos).recvAnswers = s.recvAnswers := rfl
@[simp] theorem State.goto_draws (pos : Pos) (s : State) : (s.goto pos).draws = s.draws := rfl
@[simp] theorem State.goto_trace (pos : Pos) (s : State) : (s.goto pos).trace = s.trace := rfl
@[simp] theorem State.goto_busReads (pos : Pos) (s : State) : (s.goto pos).busReads = s.busReads := rfl

/-! ## State.finish -/

@[simp] theorem State.finish_ackEn (e : ErrCode) (o : Reply) (s : State) : (s.finish e o).ackEn = s.ackEn := rfl
@[simp] theorem State.finish_strict (e : ErrCode) (o : Reply) (s : State) : (s.finish e o).strict = s.strict := rfl
@[simp] theorem State.finish_ieDone (e : ErrCode) (o : Reply) (s : State) : (s.finish e o).ieDone = s.ieDone := rfl
@[simp] theorem State.finish_ieFatal (e : ErrCode) (o : Reply) (s : State) : (s.finish e o).ieFatal = s.ieFatal := rfl
@[simp] theorem State.finish_done (e : ErrCode) (o : Reply) (s : State) : (s.finish e o).done = true := rfl
@[simp] theorem State.finish_connected (e : ErrCode) (o : Reply) (s : State) : (s.finish e o).connected = s.connected := rfl
@[simp] theorem State.finish_flip (e : ErrCode) (o : Reply) (s : State) : (s.finish e o).flip = s.flip := rfl
@[simp] theorem State.finish_fatal (e : ErrCode) (o : Reply) (s : State) : (s.finish e o).fatal = s.fatal := rfl
@[simp] theorem State.finish_ovr (e : ErrCode) (o : Reply) (s : State) : (s.finish e o).ovr = s.ovr := rfl
@[simp] theorem State.finish_hsState (e : ErrCode) (o : Reply) (s : State) : (s.finish e o).hsState = s.hsState := rfl
@[simp] theorem State.finish_rxState (e : ErrCode) (o : Reply) (s : State) : (s.finish e o).rxState = s.rxState := rfl
@[simp] theorem State.finish_errCode (e : ErrCode) (o : Reply) (s : State) : (s.finish e o).errCode = e := rfl
@[simp] theorem State.finish_outcome (e : ErrCode) (o : Reply) (s : State) : (s.finish e o).outcome = o := rfl
@[simp] theorem State.finish_fatalCause (e : ErrCode) (o : Reply) (s : State) : (s.finish e o).fatalCause = .none := rfl
@[simp] theorem State.finish_lastOp (e : ErrCode) (o : Reply) (s : State) : (s.finish e o).lastOp = opField s.seq.word := rfl
@[simp] theorem State.finish_txHdr (e : ErrCode) (o : Reply) (s : State) : (s.finish e o).txHdr = s.txHdr := rfl
@[simp] theorem State.finish_rxHdr (e : ErrCode) (o : Reply) (s : State) : (s.finish e o).rxHdr = s.rxHdr := rfl
@[simp] theorem State.finish_pktCount (e : ErrCode) (o : Reply) (s : State) : (s.finish e o).pktCount = s.pktCount := rfl
@[simp] theorem State.finish_retryCount (e : ErrCode) (o : Reply) (s : State) : (s.finish e o).retryCount = s.retryCount := rfl
@[simp] theorem State.finish_retryLimit (e : ErrCode) (o : Reply) (s : State) : (s.finish e o).retryLimit = s.retryLimit := rfl
@[simp] theorem State.finish_readTimeout (e : ErrCode) (o : Reply) (s : State) : (s.finish e o).readTimeout = s.readTimeout := rfl
@[simp] theorem State.finish_hsTimeout (e : ErrCode) (o : Reply) (s : State) : (s.finish e o).hsTimeout = s.hsTimeout := rfl
@[simp] theorem State.finish_settle (e : ErrCode) (o : Reply) (s : State) : (s.finish e o).settle = s.settle := rfl
@[simp] theorem State.finish_dbgCount (e : ErrCode) (o : Reply) (s : State) : (s.finish e o).dbgCount = s.dbgCount := rfl
@[simp] theorem State.finish_hsAttempts (e : ErrCode) (o : Reply) (s : State) : (s.finish e o).hsAttempts = s.hsAttempts := rfl
@[simp] theorem State.finish_mem (e : ErrCode) (o : Reply) (s : State) : (s.finish e o).mem = s.mem := rfl
@[simp] theorem State.finish_seq (e : ErrCode) (o : Reply) (s : State) : (s.finish e o).seq = .idle := rfl
@[simp] theorem State.finish_cmd0 (e : ErrCode) (o : Reply) (s : State) : (s.finish e o).cmd0 = s.cmd0 := rfl
@[simp] theorem State.finish_scratch (e : ErrCode) (o : Reply) (s : State) : (s.finish e o).scratch = s.scratch := rfl
@[simp] theorem State.finish_cancelPend (e : ErrCode) (o : Reply) (s : State) : (s.finish e o).cancelPend = false := rfl
@[simp] theorem State.finish_turns (e : ErrCode) (o : Reply) (s : State) : (s.finish e o).turns = s.turns := rfl
@[simp] theorem State.finish_sendAnswers (e : ErrCode) (o : Reply) (s : State) : (s.finish e o).sendAnswers = s.sendAnswers := rfl
@[simp] theorem State.finish_recvAnswers (e : ErrCode) (o : Reply) (s : State) : (s.finish e o).recvAnswers = s.recvAnswers := rfl
@[simp] theorem State.finish_draws (e : ErrCode) (o : Reply) (s : State) : (s.finish e o).draws = s.draws := rfl
@[simp] theorem State.finish_trace (e : ErrCode) (o : Reply) (s : State) : (s.finish e o).trace = s.trace := rfl
@[simp] theorem State.finish_busReads (e : ErrCode) (o : Reply) (s : State) : (s.finish e o).busReads = s.busReads := rfl

/-! ## State.raiseFatal -/

@[simp] theorem State.raiseFatal_ackEn (c : FatalCause) (s : State) : (s.raiseFatal c).ackEn = s.ackEn := rfl
@[simp] theorem State.raiseFatal_strict (c : FatalCause) (s : State) : (s.raiseFatal c).strict = s.strict := rfl
@[simp] theorem State.raiseFatal_ieDone (c : FatalCause) (s : State) : (s.raiseFatal c).ieDone = s.ieDone := rfl
@[simp] theorem State.raiseFatal_ieFatal (c : FatalCause) (s : State) : (s.raiseFatal c).ieFatal = s.ieFatal := rfl
@[simp] theorem State.raiseFatal_done (c : FatalCause) (s : State) : (s.raiseFatal c).done = true := rfl
@[simp] theorem State.raiseFatal_connected (c : FatalCause) (s : State) : (s.raiseFatal c).connected = false := rfl
@[simp] theorem State.raiseFatal_flip (c : FatalCause) (s : State) : (s.raiseFatal c).flip = s.flip := rfl
@[simp] theorem State.raiseFatal_fatal (c : FatalCause) (s : State) : (s.raiseFatal c).fatal = true := rfl
@[simp] theorem State.raiseFatal_ovr (c : FatalCause) (s : State) : (s.raiseFatal c).ovr = s.ovr := rfl
@[simp] theorem State.raiseFatal_hsState (c : FatalCause) (s : State) : (s.raiseFatal c).hsState = .disconnected := rfl
@[simp] theorem State.raiseFatal_rxState (c : FatalCause) (s : State) : (s.raiseFatal c).rxState = .awaitFirstPacket := rfl
@[simp] theorem State.raiseFatal_errCode (c : FatalCause) (s : State) : (s.raiseFatal c).errCode = .fatal := rfl
@[simp] theorem State.raiseFatal_outcome (c : FatalCause) (s : State) : (s.raiseFatal c).outcome = .none := rfl
@[simp] theorem State.raiseFatal_fatalCause (c : FatalCause) (s : State) : (s.raiseFatal c).fatalCause = c := rfl
@[simp] theorem State.raiseFatal_lastOp (c : FatalCause) (s : State) : (s.raiseFatal c).lastOp = opField s.seq.word := rfl
@[simp] theorem State.raiseFatal_txHdr (c : FatalCause) (s : State) : (s.raiseFatal c).txHdr = s.txHdr := rfl
@[simp] theorem State.raiseFatal_rxHdr (c : FatalCause) (s : State) : (s.raiseFatal c).rxHdr = s.rxHdr := rfl
@[simp] theorem State.raiseFatal_pktCount (c : FatalCause) (s : State) : (s.raiseFatal c).pktCount = s.pktCount := rfl
@[simp] theorem State.raiseFatal_retryCount (c : FatalCause) (s : State) : (s.raiseFatal c).retryCount = s.retryCount := rfl
@[simp] theorem State.raiseFatal_retryLimit (c : FatalCause) (s : State) : (s.raiseFatal c).retryLimit = s.retryLimit := rfl
@[simp] theorem State.raiseFatal_readTimeout (c : FatalCause) (s : State) : (s.raiseFatal c).readTimeout = s.readTimeout := rfl
@[simp] theorem State.raiseFatal_hsTimeout (c : FatalCause) (s : State) : (s.raiseFatal c).hsTimeout = s.hsTimeout := rfl
@[simp] theorem State.raiseFatal_settle (c : FatalCause) (s : State) : (s.raiseFatal c).settle = s.settle := rfl
@[simp] theorem State.raiseFatal_dbgCount (c : FatalCause) (s : State) : (s.raiseFatal c).dbgCount = s.dbgCount := rfl
@[simp] theorem State.raiseFatal_hsAttempts (c : FatalCause) (s : State) : (s.raiseFatal c).hsAttempts = s.hsAttempts := rfl
@[simp] theorem State.raiseFatal_mem (c : FatalCause) (s : State) : (s.raiseFatal c).mem = s.mem := rfl
@[simp] theorem State.raiseFatal_seq (c : FatalCause) (s : State) : (s.raiseFatal c).seq = .idle := rfl
@[simp] theorem State.raiseFatal_cmd0 (c : FatalCause) (s : State) : (s.raiseFatal c).cmd0 = s.cmd0 := rfl
@[simp] theorem State.raiseFatal_scratch (c : FatalCause) (s : State) : (s.raiseFatal c).scratch = s.scratch := rfl
@[simp] theorem State.raiseFatal_cancelPend (c : FatalCause) (s : State) : (s.raiseFatal c).cancelPend = false := rfl
@[simp] theorem State.raiseFatal_turns (c : FatalCause) (s : State) : (s.raiseFatal c).turns = s.turns := rfl
@[simp] theorem State.raiseFatal_sendAnswers (c : FatalCause) (s : State) : (s.raiseFatal c).sendAnswers = s.sendAnswers := rfl
@[simp] theorem State.raiseFatal_recvAnswers (c : FatalCause) (s : State) : (s.raiseFatal c).recvAnswers = s.recvAnswers := rfl
@[simp] theorem State.raiseFatal_draws (c : FatalCause) (s : State) : (s.raiseFatal c).draws = s.draws := rfl
@[simp] theorem State.raiseFatal_trace (c : FatalCause) (s : State) : (s.raiseFatal c).trace = s.trace := rfl
@[simp] theorem State.raiseFatal_busReads (c : FatalCause) (s : State) : (s.raiseFatal c).busReads = s.busReads := rfl

/-! ## State.record -/

@[simp] theorem State.record_ackEn (e : Event) (s : State) : (s.record e).ackEn = s.ackEn := rfl
@[simp] theorem State.record_strict (e : Event) (s : State) : (s.record e).strict = s.strict := rfl
@[simp] theorem State.record_ieDone (e : Event) (s : State) : (s.record e).ieDone = s.ieDone := rfl
@[simp] theorem State.record_ieFatal (e : Event) (s : State) : (s.record e).ieFatal = s.ieFatal := rfl
@[simp] theorem State.record_done (e : Event) (s : State) : (s.record e).done = s.done := rfl
@[simp] theorem State.record_connected (e : Event) (s : State) : (s.record e).connected = s.connected := rfl
@[simp] theorem State.record_flip (e : Event) (s : State) : (s.record e).flip = s.flip := rfl
@[simp] theorem State.record_fatal (e : Event) (s : State) : (s.record e).fatal = s.fatal := rfl
@[simp] theorem State.record_ovr (e : Event) (s : State) : (s.record e).ovr = s.ovr := rfl
@[simp] theorem State.record_hsState (e : Event) (s : State) : (s.record e).hsState = s.hsState := rfl
@[simp] theorem State.record_rxState (e : Event) (s : State) : (s.record e).rxState = s.rxState := rfl
@[simp] theorem State.record_errCode (e : Event) (s : State) : (s.record e).errCode = s.errCode := rfl
@[simp] theorem State.record_outcome (e : Event) (s : State) : (s.record e).outcome = s.outcome := rfl
@[simp] theorem State.record_fatalCause (e : Event) (s : State) : (s.record e).fatalCause = s.fatalCause := rfl
@[simp] theorem State.record_lastOp (e : Event) (s : State) : (s.record e).lastOp = s.lastOp := rfl
@[simp] theorem State.record_txHdr (e : Event) (s : State) : (s.record e).txHdr = s.txHdr := rfl
@[simp] theorem State.record_rxHdr (e : Event) (s : State) : (s.record e).rxHdr = s.rxHdr := rfl
@[simp] theorem State.record_pktCount (e : Event) (s : State) : (s.record e).pktCount = s.pktCount := rfl
@[simp] theorem State.record_retryCount (e : Event) (s : State) : (s.record e).retryCount = s.retryCount := rfl
@[simp] theorem State.record_retryLimit (e : Event) (s : State) : (s.record e).retryLimit = s.retryLimit := rfl
@[simp] theorem State.record_readTimeout (e : Event) (s : State) : (s.record e).readTimeout = s.readTimeout := rfl
@[simp] theorem State.record_hsTimeout (e : Event) (s : State) : (s.record e).hsTimeout = s.hsTimeout := rfl
@[simp] theorem State.record_settle (e : Event) (s : State) : (s.record e).settle = s.settle := rfl
@[simp] theorem State.record_dbgCount (e : Event) (s : State) : (s.record e).dbgCount = s.dbgCount := rfl
@[simp] theorem State.record_hsAttempts (e : Event) (s : State) : (s.record e).hsAttempts = s.hsAttempts := rfl
@[simp] theorem State.record_mem (e : Event) (s : State) : (s.record e).mem = s.mem := rfl
@[simp] theorem State.record_seq (e : Event) (s : State) : (s.record e).seq = s.seq := rfl
@[simp] theorem State.record_cmd0 (e : Event) (s : State) : (s.record e).cmd0 = s.cmd0 := rfl
@[simp] theorem State.record_scratch (e : Event) (s : State) : (s.record e).scratch = s.scratch := rfl
@[simp] theorem State.record_cancelPend (e : Event) (s : State) : (s.record e).cancelPend = s.cancelPend := rfl
@[simp] theorem State.record_turns (e : Event) (s : State) : (s.record e).turns = s.turns := rfl
@[simp] theorem State.record_sendAnswers (e : Event) (s : State) : (s.record e).sendAnswers = s.sendAnswers := rfl
@[simp] theorem State.record_recvAnswers (e : Event) (s : State) : (s.record e).recvAnswers = s.recvAnswers := rfl
@[simp] theorem State.record_draws (e : Event) (s : State) : (s.record e).draws = s.draws := rfl
@[simp] theorem State.record_trace (e : Event) (s : State) : (s.record e).trace = s.trace ++ [e] := rfl
@[simp] theorem State.record_busReads (e : Event) (s : State) : (s.record e).busReads = s.busReads := rfl

/-! ## State.sent -/

@[simp] theorem State.sent_ackEn (p : Bytes) (s : State) : (s.sent p).ackEn = s.ackEn := rfl
@[simp] theorem State.sent_strict (p : Bytes) (s : State) : (s.sent p).strict = s.strict := rfl
@[simp] theorem State.sent_ieDone (p : Bytes) (s : State) : (s.sent p).ieDone = s.ieDone := rfl
@[simp] theorem State.sent_ieFatal (p : Bytes) (s : State) : (s.sent p).ieFatal = s.ieFatal := rfl
@[simp] theorem State.sent_done (p : Bytes) (s : State) : (s.sent p).done = s.done := rfl
@[simp] theorem State.sent_connected (p : Bytes) (s : State) : (s.sent p).connected = s.connected := rfl
@[simp] theorem State.sent_flip (p : Bytes) (s : State) : (s.sent p).flip = s.flip := rfl
@[simp] theorem State.sent_fatal (p : Bytes) (s : State) : (s.sent p).fatal = s.fatal := rfl
@[simp] theorem State.sent_ovr (p : Bytes) (s : State) : (s.sent p).ovr = s.ovr := rfl
@[simp] theorem State.sent_hsState (p : Bytes) (s : State) : (s.sent p).hsState = s.hsState := rfl
@[simp] theorem State.sent_rxState (p : Bytes) (s : State) : (s.sent p).rxState = s.rxState := rfl
@[simp] theorem State.sent_errCode (p : Bytes) (s : State) : (s.sent p).errCode = s.errCode := rfl
@[simp] theorem State.sent_outcome (p : Bytes) (s : State) : (s.sent p).outcome = s.outcome := rfl
@[simp] theorem State.sent_fatalCause (p : Bytes) (s : State) : (s.sent p).fatalCause = s.fatalCause := rfl
@[simp] theorem State.sent_lastOp (p : Bytes) (s : State) : (s.sent p).lastOp = s.lastOp := rfl
@[simp] theorem State.sent_txHdr (p : Bytes) (s : State) : (s.sent p).txHdr = s.txHdr := rfl
@[simp] theorem State.sent_rxHdr (p : Bytes) (s : State) : (s.sent p).rxHdr = s.rxHdr := rfl
@[simp] theorem State.sent_pktCount (p : Bytes) (s : State) : (s.sent p).pktCount = s.pktCount := rfl
@[simp] theorem State.sent_retryCount (p : Bytes) (s : State) : (s.sent p).retryCount = s.retryCount := rfl
@[simp] theorem State.sent_retryLimit (p : Bytes) (s : State) : (s.sent p).retryLimit = s.retryLimit := rfl
@[simp] theorem State.sent_readTimeout (p : Bytes) (s : State) : (s.sent p).readTimeout = s.readTimeout := rfl
@[simp] theorem State.sent_hsTimeout (p : Bytes) (s : State) : (s.sent p).hsTimeout = s.hsTimeout := rfl
@[simp] theorem State.sent_settle (p : Bytes) (s : State) : (s.sent p).settle = s.settle := rfl
@[simp] theorem State.sent_dbgCount (p : Bytes) (s : State) : (s.sent p).dbgCount = s.dbgCount := rfl
@[simp] theorem State.sent_hsAttempts (p : Bytes) (s : State) : (s.sent p).hsAttempts = s.hsAttempts := rfl
@[simp] theorem State.sent_mem (p : Bytes) (s : State) : (s.sent p).mem = s.mem := rfl
@[simp] theorem State.sent_seq (p : Bytes) (s : State) : (s.sent p).seq = s.seq := rfl
@[simp] theorem State.sent_cmd0 (p : Bytes) (s : State) : (s.sent p).cmd0 = s.cmd0 := rfl
@[simp] theorem State.sent_scratch (p : Bytes) (s : State) : (s.sent p).scratch = s.scratch := rfl
@[simp] theorem State.sent_cancelPend (p : Bytes) (s : State) : (s.sent p).cancelPend = s.cancelPend := rfl
@[simp] theorem State.sent_turns (p : Bytes) (s : State) : (s.sent p).turns = s.turns := rfl
@[simp] theorem State.sent_sendAnswers (p : Bytes) (s : State) : (s.sent p).sendAnswers = s.sendAnswers.tail := rfl
@[simp] theorem State.sent_recvAnswers (p : Bytes) (s : State) : (s.sent p).recvAnswers = s.recvAnswers := rfl
@[simp] theorem State.sent_draws (p : Bytes) (s : State) : (s.sent p).draws = if s.sendAnswers.isEmpty then s.draws + 1 else s.draws := rfl
@[simp] theorem State.sent_trace (p : Bytes) (s : State) : (s.sent p).trace = s.trace ++ [.send p (some s.sendAnswer)] := rfl
@[simp] theorem State.sent_busReads (p : Bytes) (s : State) : (s.sent p).busReads = s.busReads := rfl

/-! ## State.received -/

@[simp] theorem State.received_ackEn (t : Word) (s : State) : (s.received t).ackEn = s.ackEn := rfl
@[simp] theorem State.received_strict (t : Word) (s : State) : (s.received t).strict = s.strict := rfl
@[simp] theorem State.received_ieDone (t : Word) (s : State) : (s.received t).ieDone = s.ieDone := rfl
@[simp] theorem State.received_ieFatal (t : Word) (s : State) : (s.received t).ieFatal = s.ieFatal := rfl
@[simp] theorem State.received_done (t : Word) (s : State) : (s.received t).done = s.done := rfl
@[simp] theorem State.received_connected (t : Word) (s : State) : (s.received t).connected = s.connected := rfl
@[simp] theorem State.received_flip (t : Word) (s : State) : (s.received t).flip = s.flip := rfl
@[simp] theorem State.received_fatal (t : Word) (s : State) : (s.received t).fatal = s.fatal := rfl
@[simp] theorem State.received_ovr (t : Word) (s : State) : (s.received t).ovr = s.ovr := rfl
@[simp] theorem State.received_hsState (t : Word) (s : State) : (s.received t).hsState = s.hsState := rfl
@[simp] theorem State.received_rxState (t : Word) (s : State) : (s.received t).rxState = s.rxState := rfl
@[simp] theorem State.received_errCode (t : Word) (s : State) : (s.received t).errCode = s.errCode := rfl
@[simp] theorem State.received_outcome (t : Word) (s : State) : (s.received t).outcome = s.outcome := rfl
@[simp] theorem State.received_fatalCause (t : Word) (s : State) : (s.received t).fatalCause = s.fatalCause := rfl
@[simp] theorem State.received_lastOp (t : Word) (s : State) : (s.received t).lastOp = s.lastOp := rfl
@[simp] theorem State.received_txHdr (t : Word) (s : State) : (s.received t).txHdr = s.txHdr := rfl
@[simp] theorem State.received_rxHdr (t : Word) (s : State) : (s.received t).rxHdr = s.rxHdr := rfl
@[simp] theorem State.received_pktCount (t : Word) (s : State) : (s.received t).pktCount = s.pktCount := rfl
@[simp] theorem State.received_retryCount (t : Word) (s : State) : (s.received t).retryCount = s.retryCount := rfl
@[simp] theorem State.received_retryLimit (t : Word) (s : State) : (s.received t).retryLimit = s.retryLimit := rfl
@[simp] theorem State.received_readTimeout (t : Word) (s : State) : (s.received t).readTimeout = s.readTimeout := rfl
@[simp] theorem State.received_hsTimeout (t : Word) (s : State) : (s.received t).hsTimeout = s.hsTimeout := rfl
@[simp] theorem State.received_settle (t : Word) (s : State) : (s.received t).settle = s.settle := rfl
@[simp] theorem State.received_dbgCount (t : Word) (s : State) : (s.received t).dbgCount = s.dbgCount := rfl
@[simp] theorem State.received_hsAttempts (t : Word) (s : State) : (s.received t).hsAttempts = s.hsAttempts := rfl
@[simp] theorem State.received_mem (t : Word) (s : State) : (s.received t).mem = s.mem := rfl
@[simp] theorem State.received_seq (t : Word) (s : State) : (s.received t).seq = s.seq := rfl
@[simp] theorem State.received_cmd0 (t : Word) (s : State) : (s.received t).cmd0 = s.cmd0 := rfl
@[simp] theorem State.received_scratch (t : Word) (s : State) : (s.received t).scratch = s.scratch := rfl
@[simp] theorem State.received_cancelPend (t : Word) (s : State) : (s.received t).cancelPend = s.cancelPend := rfl
@[simp] theorem State.received_turns (t : Word) (s : State) : (s.received t).turns = s.turns := rfl
@[simp] theorem State.received_sendAnswers (t : Word) (s : State) : (s.received t).sendAnswers = s.sendAnswers := rfl
@[simp] theorem State.received_recvAnswers (t : Word) (s : State) : (s.received t).recvAnswers = s.recvAnswers.tail := rfl
@[simp] theorem State.received_draws (t : Word) (s : State) : (s.received t).draws = if s.recvAnswers.isEmpty then s.draws + 1 else s.draws := rfl
@[simp] theorem State.received_trace (t : Word) (s : State) : (s.received t).trace = s.trace ++ [.recv t (some s.recvAnswer)] := rfl
@[simp] theorem State.received_busReads (t : Word) (s : State) : (s.received t).busReads = s.busReads := rfl

/-! ## State.wait -/

@[simp] theorem State.wait_ackEn (t : Word) (s : State) : (s.wait t).ackEn = s.ackEn := rfl
@[simp] theorem State.wait_strict (t : Word) (s : State) : (s.wait t).strict = s.strict := rfl
@[simp] theorem State.wait_ieDone (t : Word) (s : State) : (s.wait t).ieDone = s.ieDone := rfl
@[simp] theorem State.wait_ieFatal (t : Word) (s : State) : (s.wait t).ieFatal = s.ieFatal := rfl
@[simp] theorem State.wait_done (t : Word) (s : State) : (s.wait t).done = s.done := rfl
@[simp] theorem State.wait_connected (t : Word) (s : State) : (s.wait t).connected = s.connected := rfl
@[simp] theorem State.wait_flip (t : Word) (s : State) : (s.wait t).flip = s.flip := rfl
@[simp] theorem State.wait_fatal (t : Word) (s : State) : (s.wait t).fatal = s.fatal := rfl
@[simp] theorem State.wait_ovr (t : Word) (s : State) : (s.wait t).ovr = s.ovr := rfl
@[simp] theorem State.wait_hsState (t : Word) (s : State) : (s.wait t).hsState = s.hsState := rfl
@[simp] theorem State.wait_rxState (t : Word) (s : State) : (s.wait t).rxState = s.rxState := rfl
@[simp] theorem State.wait_errCode (t : Word) (s : State) : (s.wait t).errCode = s.errCode := rfl
@[simp] theorem State.wait_outcome (t : Word) (s : State) : (s.wait t).outcome = s.outcome := rfl
@[simp] theorem State.wait_fatalCause (t : Word) (s : State) : (s.wait t).fatalCause = s.fatalCause := rfl
@[simp] theorem State.wait_lastOp (t : Word) (s : State) : (s.wait t).lastOp = s.lastOp := rfl
@[simp] theorem State.wait_txHdr (t : Word) (s : State) : (s.wait t).txHdr = s.txHdr := rfl
@[simp] theorem State.wait_rxHdr (t : Word) (s : State) : (s.wait t).rxHdr = s.rxHdr := rfl
@[simp] theorem State.wait_pktCount (t : Word) (s : State) : (s.wait t).pktCount = s.pktCount := rfl
@[simp] theorem State.wait_retryCount (t : Word) (s : State) : (s.wait t).retryCount = s.retryCount := rfl
@[simp] theorem State.wait_retryLimit (t : Word) (s : State) : (s.wait t).retryLimit = s.retryLimit := rfl
@[simp] theorem State.wait_readTimeout (t : Word) (s : State) : (s.wait t).readTimeout = s.readTimeout := rfl
@[simp] theorem State.wait_hsTimeout (t : Word) (s : State) : (s.wait t).hsTimeout = s.hsTimeout := rfl
@[simp] theorem State.wait_settle (t : Word) (s : State) : (s.wait t).settle = s.settle := rfl
@[simp] theorem State.wait_dbgCount (t : Word) (s : State) : (s.wait t).dbgCount = s.dbgCount := rfl
@[simp] theorem State.wait_hsAttempts (t : Word) (s : State) : (s.wait t).hsAttempts = s.hsAttempts := rfl
@[simp] theorem State.wait_mem (t : Word) (s : State) : (s.wait t).mem = s.mem := rfl
@[simp] theorem State.wait_seq (t : Word) (s : State) : (s.wait t).seq = s.seq := rfl
@[simp] theorem State.wait_cmd0 (t : Word) (s : State) : (s.wait t).cmd0 = s.cmd0 := rfl
@[simp] theorem State.wait_scratch (t : Word) (s : State) : (s.wait t).scratch = s.scratch := rfl
@[simp] theorem State.wait_cancelPend (t : Word) (s : State) : (s.wait t).cancelPend = s.cancelPend := rfl
@[simp] theorem State.wait_turns (t : Word) (s : State) : (s.wait t).turns = s.turns := rfl
@[simp] theorem State.wait_sendAnswers (t : Word) (s : State) : (s.wait t).sendAnswers = s.sendAnswers := rfl
@[simp] theorem State.wait_recvAnswers (t : Word) (s : State) : (s.wait t).recvAnswers = s.recvAnswers := rfl
@[simp] theorem State.wait_draws (t : Word) (s : State) : (s.wait t).draws = s.draws := rfl
@[simp] theorem State.wait_trace (t : Word) (s : State) : (s.wait t).trace = s.trace ++ [.wait t] := rfl
@[simp] theorem State.wait_busReads (t : Word) (s : State) : (s.wait t).busReads = s.busReads := rfl

/-! ## State.advanceFlip -/

@[simp] theorem State.advanceFlip_ackEn (s : State) : (s.advanceFlip).ackEn = s.ackEn := rfl
@[simp] theorem State.advanceFlip_strict (s : State) : (s.advanceFlip).strict = s.strict := rfl
@[simp] theorem State.advanceFlip_ieDone (s : State) : (s.advanceFlip).ieDone = s.ieDone := rfl
@[simp] theorem State.advanceFlip_ieFatal (s : State) : (s.advanceFlip).ieFatal = s.ieFatal := rfl
@[simp] theorem State.advanceFlip_done (s : State) : (s.advanceFlip).done = s.done := rfl
@[simp] theorem State.advanceFlip_connected (s : State) : (s.advanceFlip).connected = s.connected := rfl
@[simp] theorem State.advanceFlip_flip (s : State) : (s.advanceFlip).flip = !s.flip := rfl
@[simp] theorem State.advanceFlip_fatal (s : State) : (s.advanceFlip).fatal = s.fatal := rfl
@[simp] theorem State.advanceFlip_ovr (s : State) : (s.advanceFlip).ovr = s.ovr := rfl
@[simp] theorem State.advanceFlip_hsState (s : State) : (s.advanceFlip).hsState = s.hsState := rfl
@[simp] theorem State.advanceFlip_rxState (s : State) : (s.advanceFlip).rxState = s.rxState := rfl
@[simp] theorem State.advanceFlip_errCode (s : State) : (s.advanceFlip).errCode = s.errCode := rfl
@[simp] theorem State.advanceFlip_outcome (s : State) : (s.advanceFlip).outcome = s.outcome := rfl
@[simp] theorem State.advanceFlip_fatalCause (s : State) : (s.advanceFlip).fatalCause = s.fatalCause := rfl
@[simp] theorem State.advanceFlip_lastOp (s : State) : (s.advanceFlip).lastOp = s.lastOp := rfl
@[simp] theorem State.advanceFlip_txHdr (s : State) : (s.advanceFlip).txHdr = s.txHdr := rfl
@[simp] theorem State.advanceFlip_rxHdr (s : State) : (s.advanceFlip).rxHdr = s.rxHdr := rfl
@[simp] theorem State.advanceFlip_pktCount (s : State) : (s.advanceFlip).pktCount = s.pktCount := rfl
@[simp] theorem State.advanceFlip_retryCount (s : State) : (s.advanceFlip).retryCount = s.retryCount := rfl
@[simp] theorem State.advanceFlip_retryLimit (s : State) : (s.advanceFlip).retryLimit = s.retryLimit := rfl
@[simp] theorem State.advanceFlip_readTimeout (s : State) : (s.advanceFlip).readTimeout = s.readTimeout := rfl
@[simp] theorem State.advanceFlip_hsTimeout (s : State) : (s.advanceFlip).hsTimeout = s.hsTimeout := rfl
@[simp] theorem State.advanceFlip_settle (s : State) : (s.advanceFlip).settle = s.settle := rfl
@[simp] theorem State.advanceFlip_dbgCount (s : State) : (s.advanceFlip).dbgCount = s.dbgCount := rfl
@[simp] theorem State.advanceFlip_hsAttempts (s : State) : (s.advanceFlip).hsAttempts = s.hsAttempts := rfl
@[simp] theorem State.advanceFlip_mem (s : State) : (s.advanceFlip).mem = s.mem := rfl
@[simp] theorem State.advanceFlip_seq (s : State) : (s.advanceFlip).seq = s.seq := rfl
@[simp] theorem State.advanceFlip_cmd0 (s : State) : (s.advanceFlip).cmd0 = s.cmd0 := rfl
@[simp] theorem State.advanceFlip_scratch (s : State) : (s.advanceFlip).scratch = s.scratch := rfl
@[simp] theorem State.advanceFlip_cancelPend (s : State) : (s.advanceFlip).cancelPend = s.cancelPend := rfl
@[simp] theorem State.advanceFlip_turns (s : State) : (s.advanceFlip).turns = s.turns := rfl
@[simp] theorem State.advanceFlip_sendAnswers (s : State) : (s.advanceFlip).sendAnswers = s.sendAnswers := rfl
@[simp] theorem State.advanceFlip_recvAnswers (s : State) : (s.advanceFlip).recvAnswers = s.recvAnswers := rfl
@[simp] theorem State.advanceFlip_draws (s : State) : (s.advanceFlip).draws = s.draws := rfl
@[simp] theorem State.advanceFlip_trace (s : State) : (s.advanceFlip).trace = s.trace := rfl
@[simp] theorem State.advanceFlip_busReads (s : State) : (s.advanceFlip).busReads = s.busReads := rfl

/-! ## State.setHs -/

@[simp] theorem State.setHs_ackEn (h : HsState) (s : State) : (s.setHs h).ackEn = s.ackEn := rfl
@[simp] theorem State.setHs_strict (h : HsState) (s : State) : (s.setHs h).strict = s.strict := rfl
@[simp] theorem State.setHs_ieDone (h : HsState) (s : State) : (s.setHs h).ieDone = s.ieDone := rfl
@[simp] theorem State.setHs_ieFatal (h : HsState) (s : State) : (s.setHs h).ieFatal = s.ieFatal := rfl
@[simp] theorem State.setHs_done (h : HsState) (s : State) : (s.setHs h).done = s.done := rfl
@[simp] theorem State.setHs_connected (h : HsState) (s : State) : (s.setHs h).connected = s.connected := rfl
@[simp] theorem State.setHs_flip (h : HsState) (s : State) : (s.setHs h).flip = s.flip := rfl
@[simp] theorem State.setHs_fatal (h : HsState) (s : State) : (s.setHs h).fatal = s.fatal := rfl
@[simp] theorem State.setHs_ovr (h : HsState) (s : State) : (s.setHs h).ovr = s.ovr := rfl
@[simp] theorem State.setHs_hsState (h : HsState) (s : State) : (s.setHs h).hsState = h := rfl
@[simp] theorem State.setHs_rxState (h : HsState) (s : State) : (s.setHs h).rxState = s.rxState := rfl
@[simp] theorem State.setHs_errCode (h : HsState) (s : State) : (s.setHs h).errCode = s.errCode := rfl
@[simp] theorem State.setHs_outcome (h : HsState) (s : State) : (s.setHs h).outcome = s.outcome := rfl
@[simp] theorem State.setHs_fatalCause (h : HsState) (s : State) : (s.setHs h).fatalCause = s.fatalCause := rfl
@[simp] theorem State.setHs_lastOp (h : HsState) (s : State) : (s.setHs h).lastOp = s.lastOp := rfl
@[simp] theorem State.setHs_txHdr (h : HsState) (s : State) : (s.setHs h).txHdr = s.txHdr := rfl
@[simp] theorem State.setHs_rxHdr (h : HsState) (s : State) : (s.setHs h).rxHdr = s.rxHdr := rfl
@[simp] theorem State.setHs_pktCount (h : HsState) (s : State) : (s.setHs h).pktCount = s.pktCount := rfl
@[simp] theorem State.setHs_retryCount (h : HsState) (s : State) : (s.setHs h).retryCount = s.retryCount := rfl
@[simp] theorem State.setHs_retryLimit (h : HsState) (s : State) : (s.setHs h).retryLimit = s.retryLimit := rfl
@[simp] theorem State.setHs_readTimeout (h : HsState) (s : State) : (s.setHs h).readTimeout = s.readTimeout := rfl
@[simp] theorem State.setHs_hsTimeout (h : HsState) (s : State) : (s.setHs h).hsTimeout = s.hsTimeout := rfl
@[simp] theorem State.setHs_settle (h : HsState) (s : State) : (s.setHs h).settle = s.settle := rfl
@[simp] theorem State.setHs_dbgCount (h : HsState) (s : State) : (s.setHs h).dbgCount = s.dbgCount := rfl
@[simp] theorem State.setHs_hsAttempts (h : HsState) (s : State) : (s.setHs h).hsAttempts = s.hsAttempts := rfl
@[simp] theorem State.setHs_mem (h : HsState) (s : State) : (s.setHs h).mem = s.mem := rfl
@[simp] theorem State.setHs_seq (h : HsState) (s : State) : (s.setHs h).seq = s.seq := rfl
@[simp] theorem State.setHs_cmd0 (h : HsState) (s : State) : (s.setHs h).cmd0 = s.cmd0 := rfl
@[simp] theorem State.setHs_scratch (h : HsState) (s : State) : (s.setHs h).scratch = s.scratch := rfl
@[simp] theorem State.setHs_cancelPend (h : HsState) (s : State) : (s.setHs h).cancelPend = s.cancelPend := rfl
@[simp] theorem State.setHs_turns (h : HsState) (s : State) : (s.setHs h).turns = s.turns := rfl
@[simp] theorem State.setHs_sendAnswers (h : HsState) (s : State) : (s.setHs h).sendAnswers = s.sendAnswers := rfl
@[simp] theorem State.setHs_recvAnswers (h : HsState) (s : State) : (s.setHs h).recvAnswers = s.recvAnswers := rfl
@[simp] theorem State.setHs_draws (h : HsState) (s : State) : (s.setHs h).draws = s.draws := rfl
@[simp] theorem State.setHs_trace (h : HsState) (s : State) : (s.setHs h).trace = s.trace := rfl
@[simp] theorem State.setHs_busReads (h : HsState) (s : State) : (s.setHs h).busReads = s.busReads := rfl

/-! ## State.setRx -/

@[simp] theorem State.setRx_ackEn (r : RxState) (s : State) : (s.setRx r).ackEn = s.ackEn := rfl
@[simp] theorem State.setRx_strict (r : RxState) (s : State) : (s.setRx r).strict = s.strict := rfl
@[simp] theorem State.setRx_ieDone (r : RxState) (s : State) : (s.setRx r).ieDone = s.ieDone := rfl
@[simp] theorem State.setRx_ieFatal (r : RxState) (s : State) : (s.setRx r).ieFatal = s.ieFatal := rfl
@[simp] theorem State.setRx_done (r : RxState) (s : State) : (s.setRx r).done = s.done := rfl
@[simp] theorem State.setRx_connected (r : RxState) (s : State) : (s.setRx r).connected = s.connected := rfl
@[simp] theorem State.setRx_flip (r : RxState) (s : State) : (s.setRx r).flip = s.flip := rfl
@[simp] theorem State.setRx_fatal (r : RxState) (s : State) : (s.setRx r).fatal = s.fatal := rfl
@[simp] theorem State.setRx_ovr (r : RxState) (s : State) : (s.setRx r).ovr = s.ovr := rfl
@[simp] theorem State.setRx_hsState (r : RxState) (s : State) : (s.setRx r).hsState = s.hsState := rfl
@[simp] theorem State.setRx_rxState (r : RxState) (s : State) : (s.setRx r).rxState = r := rfl
@[simp] theorem State.setRx_errCode (r : RxState) (s : State) : (s.setRx r).errCode = s.errCode := rfl
@[simp] theorem State.setRx_outcome (r : RxState) (s : State) : (s.setRx r).outcome = s.outcome := rfl
@[simp] theorem State.setRx_fatalCause (r : RxState) (s : State) : (s.setRx r).fatalCause = s.fatalCause := rfl
@[simp] theorem State.setRx_lastOp (r : RxState) (s : State) : (s.setRx r).lastOp = s.lastOp := rfl
@[simp] theorem State.setRx_txHdr (r : RxState) (s : State) : (s.setRx r).txHdr = s.txHdr := rfl
@[simp] theorem State.setRx_rxHdr (r : RxState) (s : State) : (s.setRx r).rxHdr = s.rxHdr := rfl
@[simp] theorem State.setRx_pktCount (r : RxState) (s : State) : (s.setRx r).pktCount = s.pktCount := rfl
@[simp] theorem State.setRx_retryCount (r : RxState) (s : State) : (s.setRx r).retryCount = s.retryCount := rfl
@[simp] theorem State.setRx_retryLimit (r : RxState) (s : State) : (s.setRx r).retryLimit = s.retryLimit := rfl
@[simp] theorem State.setRx_readTimeout (r : RxState) (s : State) : (s.setRx r).readTimeout = s.readTimeout := rfl
@[simp] theorem State.setRx_hsTimeout (r : RxState) (s : State) : (s.setRx r).hsTimeout = s.hsTimeout := rfl
@[simp] theorem State.setRx_settle (r : RxState) (s : State) : (s.setRx r).settle = s.settle := rfl
@[simp] theorem State.setRx_dbgCount (r : RxState) (s : State) : (s.setRx r).dbgCount = s.dbgCount := rfl
@[simp] theorem State.setRx_hsAttempts (r : RxState) (s : State) : (s.setRx r).hsAttempts = s.hsAttempts := rfl
@[simp] theorem State.setRx_mem (r : RxState) (s : State) : (s.setRx r).mem = s.mem := rfl
@[simp] theorem State.setRx_seq (r : RxState) (s : State) : (s.setRx r).seq = s.seq := rfl
@[simp] theorem State.setRx_cmd0 (r : RxState) (s : State) : (s.setRx r).cmd0 = s.cmd0 := rfl
@[simp] theorem State.setRx_scratch (r : RxState) (s : State) : (s.setRx r).scratch = s.scratch := rfl
@[simp] theorem State.setRx_cancelPend (r : RxState) (s : State) : (s.setRx r).cancelPend = s.cancelPend := rfl
@[simp] theorem State.setRx_turns (r : RxState) (s : State) : (s.setRx r).turns = s.turns := rfl
@[simp] theorem State.setRx_sendAnswers (r : RxState) (s : State) : (s.setRx r).sendAnswers = s.sendAnswers := rfl
@[simp] theorem State.setRx_recvAnswers (r : RxState) (s : State) : (s.setRx r).recvAnswers = s.recvAnswers := rfl
@[simp] theorem State.setRx_draws (r : RxState) (s : State) : (s.setRx r).draws = s.draws := rfl
@[simp] theorem State.setRx_trace (r : RxState) (s : State) : (s.setRx r).trace = s.trace := rfl
@[simp] theorem State.setRx_busReads (r : RxState) (s : State) : (s.setRx r).busReads = s.busReads := rfl

/-! ## State.storePkt -/

@[simp] theorem State.storePkt_ackEn (ps : List Bytes) (s : State) : (s.storePkt ps).ackEn = s.ackEn := rfl
@[simp] theorem State.storePkt_strict (ps : List Bytes) (s : State) : (s.storePkt ps).strict = s.strict := rfl
@[simp] theorem State.storePkt_ieDone (ps : List Bytes) (s : State) : (s.storePkt ps).ieDone = s.ieDone := rfl
@[simp] theorem State.storePkt_ieFatal (ps : List Bytes) (s : State) : (s.storePkt ps).ieFatal = s.ieFatal := rfl
@[simp] theorem State.storePkt_done (ps : List Bytes) (s : State) : (s.storePkt ps).done = s.done := rfl
@[simp] theorem State.storePkt_connected (ps : List Bytes) (s : State) : (s.storePkt ps).connected = s.connected := rfl
@[simp] theorem State.storePkt_flip (ps : List Bytes) (s : State) : (s.storePkt ps).flip = s.flip := rfl
@[simp] theorem State.storePkt_fatal (ps : List Bytes) (s : State) : (s.storePkt ps).fatal = s.fatal := rfl
@[simp] theorem State.storePkt_ovr (ps : List Bytes) (s : State) : (s.storePkt ps).ovr = s.ovr := rfl
@[simp] theorem State.storePkt_hsState (ps : List Bytes) (s : State) : (s.storePkt ps).hsState = s.hsState := rfl
@[simp] theorem State.storePkt_rxState (ps : List Bytes) (s : State) : (s.storePkt ps).rxState = s.rxState := rfl
@[simp] theorem State.storePkt_errCode (ps : List Bytes) (s : State) : (s.storePkt ps).errCode = s.errCode := rfl
@[simp] theorem State.storePkt_outcome (ps : List Bytes) (s : State) : (s.storePkt ps).outcome = s.outcome := rfl
@[simp] theorem State.storePkt_fatalCause (ps : List Bytes) (s : State) : (s.storePkt ps).fatalCause = s.fatalCause := rfl
@[simp] theorem State.storePkt_lastOp (ps : List Bytes) (s : State) : (s.storePkt ps).lastOp = s.lastOp := rfl
@[simp] theorem State.storePkt_txHdr (ps : List Bytes) (s : State) : (s.storePkt ps).txHdr = s.txHdr := rfl
@[simp] theorem State.storePkt_rxHdr (ps : List Bytes) (s : State) : (s.storePkt ps).rxHdr = s.rxHdr := rfl
@[simp] theorem State.storePkt_pktCount (ps : List Bytes) (s : State) : (s.storePkt ps).pktCount = BitVec.ofNat 5 ps.length := rfl
@[simp] theorem State.storePkt_retryCount (ps : List Bytes) (s : State) : (s.storePkt ps).retryCount = s.retryCount := rfl
@[simp] theorem State.storePkt_retryLimit (ps : List Bytes) (s : State) : (s.storePkt ps).retryLimit = s.retryLimit := rfl
@[simp] theorem State.storePkt_readTimeout (ps : List Bytes) (s : State) : (s.storePkt ps).readTimeout = s.readTimeout := rfl
@[simp] theorem State.storePkt_hsTimeout (ps : List Bytes) (s : State) : (s.storePkt ps).hsTimeout = s.hsTimeout := rfl
@[simp] theorem State.storePkt_settle (ps : List Bytes) (s : State) : (s.storePkt ps).settle = s.settle := rfl
@[simp] theorem State.storePkt_dbgCount (ps : List Bytes) (s : State) : (s.storePkt ps).dbgCount = s.dbgCount := rfl
@[simp] theorem State.storePkt_hsAttempts (ps : List Bytes) (s : State) : (s.storePkt ps).hsAttempts = s.hsAttempts := rfl
@[simp] theorem State.storePkt_mem (ps : List Bytes) (s : State) : (s.storePkt ps).mem = Memory.writeRange s.mem pktBase (padTo (Config.pktMax * Config.mtu) ps.flatten) := rfl
@[simp] theorem State.storePkt_seq (ps : List Bytes) (s : State) : (s.storePkt ps).seq = s.seq := rfl
@[simp] theorem State.storePkt_cmd0 (ps : List Bytes) (s : State) : (s.storePkt ps).cmd0 = s.cmd0 := rfl
@[simp] theorem State.storePkt_scratch (ps : List Bytes) (s : State) : (s.storePkt ps).scratch = s.scratch := rfl
@[simp] theorem State.storePkt_cancelPend (ps : List Bytes) (s : State) : (s.storePkt ps).cancelPend = s.cancelPend := rfl
@[simp] theorem State.storePkt_turns (ps : List Bytes) (s : State) : (s.storePkt ps).turns = s.turns := rfl
@[simp] theorem State.storePkt_sendAnswers (ps : List Bytes) (s : State) : (s.storePkt ps).sendAnswers = s.sendAnswers := rfl
@[simp] theorem State.storePkt_recvAnswers (ps : List Bytes) (s : State) : (s.storePkt ps).recvAnswers = s.recvAnswers := rfl
@[simp] theorem State.storePkt_draws (ps : List Bytes) (s : State) : (s.storePkt ps).draws = s.draws := rfl
@[simp] theorem State.storePkt_trace (ps : List Bytes) (s : State) : (s.storePkt ps).trace = s.trace := rfl
@[simp] theorem State.storePkt_busReads (ps : List Bytes) (s : State) : (s.storePkt ps).busReads = s.busReads := rfl

/-! ## State.commit -/

@[simp] theorem State.commit_ackEn (c l : Half) (acc : Bytes) (s : State) : (s.commit c l acc).ackEn = s.ackEn := rfl
@[simp] theorem State.commit_strict (c l : Half) (acc : Bytes) (s : State) : (s.commit c l acc).strict = s.strict := rfl
@[simp] theorem State.commit_ieDone (c l : Half) (acc : Bytes) (s : State) : (s.commit c l acc).ieDone = s.ieDone := rfl
@[simp] theorem State.commit_ieFatal (c l : Half) (acc : Bytes) (s : State) : (s.commit c l acc).ieFatal = s.ieFatal := rfl
@[simp] theorem State.commit_done (c l : Half) (acc : Bytes) (s : State) : (s.commit c l acc).done = s.done := rfl
@[simp] theorem State.commit_connected (c l : Half) (acc : Bytes) (s : State) : (s.commit c l acc).connected = s.connected := rfl
@[simp] theorem State.commit_flip (c l : Half) (acc : Bytes) (s : State) : (s.commit c l acc).flip = s.flip := rfl
@[simp] theorem State.commit_fatal (c l : Half) (acc : Bytes) (s : State) : (s.commit c l acc).fatal = s.fatal := rfl
@[simp] theorem State.commit_ovr (c l : Half) (acc : Bytes) (s : State) : (s.commit c l acc).ovr = s.ovr := rfl
@[simp] theorem State.commit_hsState (c l : Half) (acc : Bytes) (s : State) : (s.commit c l acc).hsState = s.hsState := rfl
@[simp] theorem State.commit_rxState (c l : Half) (acc : Bytes) (s : State) : (s.commit c l acc).rxState = s.rxState := rfl
@[simp] theorem State.commit_errCode (c l : Half) (acc : Bytes) (s : State) : (s.commit c l acc).errCode = s.errCode := rfl
@[simp] theorem State.commit_outcome (c l : Half) (acc : Bytes) (s : State) : (s.commit c l acc).outcome = s.outcome := rfl
@[simp] theorem State.commit_fatalCause (c l : Half) (acc : Bytes) (s : State) : (s.commit c l acc).fatalCause = s.fatalCause := rfl
@[simp] theorem State.commit_lastOp (c l : Half) (acc : Bytes) (s : State) : (s.commit c l acc).lastOp = s.lastOp := rfl
@[simp] theorem State.commit_txHdr (c l : Half) (acc : Bytes) (s : State) : (s.commit c l acc).txHdr = s.txHdr := rfl
@[simp] theorem State.commit_rxHdr (c l : Half) (acc : Bytes) (s : State) : (s.commit c l acc).rxHdr = l ++ c := rfl
@[simp] theorem State.commit_pktCount (c l : Half) (acc : Bytes) (s : State) : (s.commit c l acc).pktCount = s.pktCount := rfl
@[simp] theorem State.commit_retryCount (c l : Half) (acc : Bytes) (s : State) : (s.commit c l acc).retryCount = s.retryCount := rfl
@[simp] theorem State.commit_retryLimit (c l : Half) (acc : Bytes) (s : State) : (s.commit c l acc).retryLimit = s.retryLimit := rfl
@[simp] theorem State.commit_readTimeout (c l : Half) (acc : Bytes) (s : State) : (s.commit c l acc).readTimeout = s.readTimeout := rfl
@[simp] theorem State.commit_hsTimeout (c l : Half) (acc : Bytes) (s : State) : (s.commit c l acc).hsTimeout = s.hsTimeout := rfl
@[simp] theorem State.commit_settle (c l : Half) (acc : Bytes) (s : State) : (s.commit c l acc).settle = s.settle := rfl
@[simp] theorem State.commit_dbgCount (c l : Half) (acc : Bytes) (s : State) : (s.commit c l acc).dbgCount = s.dbgCount := rfl
@[simp] theorem State.commit_hsAttempts (c l : Half) (acc : Bytes) (s : State) : (s.commit c l acc).hsAttempts = s.hsAttempts := rfl
@[simp] theorem State.commit_mem (c l : Half) (acc : Bytes) (s : State) : (s.commit c l acc).mem = Memory.writeRange s.mem rxBase (padTo Config.msgMax (acc.take l.toNat)) := rfl
@[simp] theorem State.commit_seq (c l : Half) (acc : Bytes) (s : State) : (s.commit c l acc).seq = s.seq := rfl
@[simp] theorem State.commit_cmd0 (c l : Half) (acc : Bytes) (s : State) : (s.commit c l acc).cmd0 = s.cmd0 := rfl
@[simp] theorem State.commit_scratch (c l : Half) (acc : Bytes) (s : State) : (s.commit c l acc).scratch = s.scratch := rfl
@[simp] theorem State.commit_cancelPend (c l : Half) (acc : Bytes) (s : State) : (s.commit c l acc).cancelPend = s.cancelPend := rfl
@[simp] theorem State.commit_turns (c l : Half) (acc : Bytes) (s : State) : (s.commit c l acc).turns = s.turns := rfl
@[simp] theorem State.commit_sendAnswers (c l : Half) (acc : Bytes) (s : State) : (s.commit c l acc).sendAnswers = s.sendAnswers := rfl
@[simp] theorem State.commit_recvAnswers (c l : Half) (acc : Bytes) (s : State) : (s.commit c l acc).recvAnswers = s.recvAnswers := rfl
@[simp] theorem State.commit_draws (c l : Half) (acc : Bytes) (s : State) : (s.commit c l acc).draws = s.draws := rfl
@[simp] theorem State.commit_trace (c l : Half) (acc : Bytes) (s : State) : (s.commit c l acc).trace = s.trace := rfl
@[simp] theorem State.commit_busReads (c l : Half) (acc : Bytes) (s : State) : (s.commit c l acc).busReads = s.busReads := rfl

/-! ## State.storeReference -/

@[simp] theorem State.storeReference_ackEn (s : State) : (s.storeReference).ackEn = s.ackEn := rfl
@[simp] theorem State.storeReference_strict (s : State) : (s.storeReference).strict = s.strict := rfl
@[simp] theorem State.storeReference_ieDone (s : State) : (s.storeReference).ieDone = s.ieDone := rfl
@[simp] theorem State.storeReference_ieFatal (s : State) : (s.storeReference).ieFatal = s.ieFatal := rfl
@[simp] theorem State.storeReference_done (s : State) : (s.storeReference).done = s.done := rfl
@[simp] theorem State.storeReference_connected (s : State) : (s.storeReference).connected = s.connected := rfl
@[simp] theorem State.storeReference_flip (s : State) : (s.storeReference).flip = s.flip := rfl
@[simp] theorem State.storeReference_fatal (s : State) : (s.storeReference).fatal = s.fatal := rfl
@[simp] theorem State.storeReference_ovr (s : State) : (s.storeReference).ovr = s.ovr := rfl
@[simp] theorem State.storeReference_hsState (s : State) : (s.storeReference).hsState = s.hsState := rfl
@[simp] theorem State.storeReference_rxState (s : State) : (s.storeReference).rxState = s.rxState := rfl
@[simp] theorem State.storeReference_errCode (s : State) : (s.storeReference).errCode = s.errCode := rfl
@[simp] theorem State.storeReference_outcome (s : State) : (s.storeReference).outcome = s.outcome := rfl
@[simp] theorem State.storeReference_fatalCause (s : State) : (s.storeReference).fatalCause = s.fatalCause := rfl
@[simp] theorem State.storeReference_lastOp (s : State) : (s.storeReference).lastOp = s.lastOp := rfl
@[simp] theorem State.storeReference_txHdr (s : State) : (s.storeReference).txHdr = s.txHdr := rfl
@[simp] theorem State.storeReference_rxHdr (s : State) : (s.storeReference).rxHdr = s.rxHdr := rfl
@[simp] theorem State.storeReference_pktCount (s : State) : (s.storeReference).pktCount = s.pktCount := rfl
@[simp] theorem State.storeReference_retryCount (s : State) : (s.storeReference).retryCount = s.retryCount := rfl
@[simp] theorem State.storeReference_retryLimit (s : State) : (s.storeReference).retryLimit = s.retryLimit := rfl
@[simp] theorem State.storeReference_readTimeout (s : State) : (s.storeReference).readTimeout = s.readTimeout := rfl
@[simp] theorem State.storeReference_hsTimeout (s : State) : (s.storeReference).hsTimeout = s.hsTimeout := rfl
@[simp] theorem State.storeReference_settle (s : State) : (s.storeReference).settle = s.settle := rfl
@[simp] theorem State.storeReference_dbgCount (s : State) : (s.storeReference).dbgCount = s.dbgCount := rfl
@[simp] theorem State.storeReference_hsAttempts (s : State) : (s.storeReference).hsAttempts = s.hsAttempts := rfl
@[simp] theorem State.storeReference_mem (s : State) : (s.storeReference).mem = Memory.writeRange s.mem refBase (s.packet 0) := rfl
@[simp] theorem State.storeReference_seq (s : State) : (s.storeReference).seq = s.seq := rfl
@[simp] theorem State.storeReference_cmd0 (s : State) : (s.storeReference).cmd0 = s.cmd0 := rfl
@[simp] theorem State.storeReference_scratch (s : State) : (s.storeReference).scratch = s.scratch := rfl
@[simp] theorem State.storeReference_cancelPend (s : State) : (s.storeReference).cancelPend = s.cancelPend := rfl
@[simp] theorem State.storeReference_turns (s : State) : (s.storeReference).turns = s.turns := rfl
@[simp] theorem State.storeReference_sendAnswers (s : State) : (s.storeReference).sendAnswers = s.sendAnswers := rfl
@[simp] theorem State.storeReference_recvAnswers (s : State) : (s.storeReference).recvAnswers = s.recvAnswers := rfl
@[simp] theorem State.storeReference_draws (s : State) : (s.storeReference).draws = s.draws := rfl
@[simp] theorem State.storeReference_trace (s : State) : (s.storeReference).trace = s.trace := rfl
@[simp] theorem State.storeReference_busReads (s : State) : (s.storeReference).busReads = s.busReads := rfl

/-! ## State.clearReferenceAck -/

@[simp] theorem State.clearReferenceAck_ackEn (s : State) : (s.clearReferenceAck).ackEn = s.ackEn := rfl
@[simp] theorem State.clearReferenceAck_strict (s : State) : (s.clearReferenceAck).strict = s.strict := rfl
@[simp] theorem State.clearReferenceAck_ieDone (s : State) : (s.clearReferenceAck).ieDone = s.ieDone := rfl
@[simp] theorem State.clearReferenceAck_ieFatal (s : State) : (s.clearReferenceAck).ieFatal = s.ieFatal := rfl
@[simp] theorem State.clearReferenceAck_done (s : State) : (s.clearReferenceAck).done = s.done := rfl
@[simp] theorem State.clearReferenceAck_connected (s : State) : (s.clearReferenceAck).connected = s.connected := rfl
@[simp] theorem State.clearReferenceAck_flip (s : State) : (s.clearReferenceAck).flip = s.flip := rfl
@[simp] theorem State.clearReferenceAck_fatal (s : State) : (s.clearReferenceAck).fatal = s.fatal := rfl
@[simp] theorem State.clearReferenceAck_ovr (s : State) : (s.clearReferenceAck).ovr = s.ovr := rfl
@[simp] theorem State.clearReferenceAck_hsState (s : State) : (s.clearReferenceAck).hsState = s.hsState := rfl
@[simp] theorem State.clearReferenceAck_rxState (s : State) : (s.clearReferenceAck).rxState = s.rxState := rfl
@[simp] theorem State.clearReferenceAck_errCode (s : State) : (s.clearReferenceAck).errCode = s.errCode := rfl
@[simp] theorem State.clearReferenceAck_outcome (s : State) : (s.clearReferenceAck).outcome = s.outcome := rfl
@[simp] theorem State.clearReferenceAck_fatalCause (s : State) : (s.clearReferenceAck).fatalCause = s.fatalCause := rfl
@[simp] theorem State.clearReferenceAck_lastOp (s : State) : (s.clearReferenceAck).lastOp = s.lastOp := rfl
@[simp] theorem State.clearReferenceAck_txHdr (s : State) : (s.clearReferenceAck).txHdr = s.txHdr := rfl
@[simp] theorem State.clearReferenceAck_rxHdr (s : State) : (s.clearReferenceAck).rxHdr = s.rxHdr := rfl
@[simp] theorem State.clearReferenceAck_pktCount (s : State) : (s.clearReferenceAck).pktCount = s.pktCount := rfl
@[simp] theorem State.clearReferenceAck_retryCount (s : State) : (s.clearReferenceAck).retryCount = s.retryCount := rfl
@[simp] theorem State.clearReferenceAck_retryLimit (s : State) : (s.clearReferenceAck).retryLimit = s.retryLimit := rfl
@[simp] theorem State.clearReferenceAck_readTimeout (s : State) : (s.clearReferenceAck).readTimeout = s.readTimeout := rfl
@[simp] theorem State.clearReferenceAck_hsTimeout (s : State) : (s.clearReferenceAck).hsTimeout = s.hsTimeout := rfl
@[simp] theorem State.clearReferenceAck_settle (s : State) : (s.clearReferenceAck).settle = s.settle := rfl
@[simp] theorem State.clearReferenceAck_dbgCount (s : State) : (s.clearReferenceAck).dbgCount = s.dbgCount := rfl
@[simp] theorem State.clearReferenceAck_hsAttempts (s : State) : (s.clearReferenceAck).hsAttempts = s.hsAttempts := rfl
@[simp] theorem State.clearReferenceAck_mem (s : State) : (s.clearReferenceAck).mem = Memory.writeRange s.mem refBase [clearAck (Memory.read s.mem refBase)] := rfl
@[simp] theorem State.clearReferenceAck_seq (s : State) : (s.clearReferenceAck).seq = s.seq := rfl
@[simp] theorem State.clearReferenceAck_cmd0 (s : State) : (s.clearReferenceAck).cmd0 = s.cmd0 := rfl
@[simp] theorem State.clearReferenceAck_scratch (s : State) : (s.clearReferenceAck).scratch = s.scratch := rfl
@[simp] theorem State.clearReferenceAck_cancelPend (s : State) : (s.clearReferenceAck).cancelPend = s.cancelPend := rfl
@[simp] theorem State.clearReferenceAck_turns (s : State) : (s.clearReferenceAck).turns = s.turns := rfl
@[simp] theorem State.clearReferenceAck_sendAnswers (s : State) : (s.clearReferenceAck).sendAnswers = s.sendAnswers := rfl
@[simp] theorem State.clearReferenceAck_recvAnswers (s : State) : (s.clearReferenceAck).recvAnswers = s.recvAnswers := rfl
@[simp] theorem State.clearReferenceAck_draws (s : State) : (s.clearReferenceAck).draws = s.draws := rfl
@[simp] theorem State.clearReferenceAck_trace (s : State) : (s.clearReferenceAck).trace = s.trace := rfl
@[simp] theorem State.clearReferenceAck_busReads (s : State) : (s.clearReferenceAck).busReads = s.busReads := rfl

/-! ## State.overrun -/

@[simp] theorem State.overrun_ackEn (s : State) : (s.overrun).ackEn = s.ackEn := rfl
@[simp] theorem State.overrun_strict (s : State) : (s.overrun).strict = s.strict := rfl
@[simp] theorem State.overrun_ieDone (s : State) : (s.overrun).ieDone = s.ieDone := rfl
@[simp] theorem State.overrun_ieFatal (s : State) : (s.overrun).ieFatal = s.ieFatal := rfl
@[simp] theorem State.overrun_done (s : State) : (s.overrun).done = s.done := rfl
@[simp] theorem State.overrun_connected (s : State) : (s.overrun).connected = s.connected := rfl
@[simp] theorem State.overrun_flip (s : State) : (s.overrun).flip = s.flip := rfl
@[simp] theorem State.overrun_fatal (s : State) : (s.overrun).fatal = s.fatal := rfl
@[simp] theorem State.overrun_ovr (s : State) : (s.overrun).ovr = true := rfl
@[simp] theorem State.overrun_hsState (s : State) : (s.overrun).hsState = s.hsState := rfl
@[simp] theorem State.overrun_rxState (s : State) : (s.overrun).rxState = s.rxState := rfl
@[simp] theorem State.overrun_errCode (s : State) : (s.overrun).errCode = s.errCode := rfl
@[simp] theorem State.overrun_outcome (s : State) : (s.overrun).outcome = s.outcome := rfl
@[simp] theorem State.overrun_fatalCause (s : State) : (s.overrun).fatalCause = s.fatalCause := rfl
@[simp] theorem State.overrun_lastOp (s : State) : (s.overrun).lastOp = s.lastOp := rfl
@[simp] theorem State.overrun_txHdr (s : State) : (s.overrun).txHdr = s.txHdr := rfl
@[simp] theorem State.overrun_rxHdr (s : State) : (s.overrun).rxHdr = s.rxHdr := rfl
@[simp] theorem State.overrun_pktCount (s : State) : (s.overrun).pktCount = s.pktCount := rfl
@[simp] theorem State.overrun_retryCount (s : State) : (s.overrun).retryCount = s.retryCount := rfl
@[simp] theorem State.overrun_retryLimit (s : State) : (s.overrun).retryLimit = s.retryLimit := rfl
@[simp] theorem State.overrun_readTimeout (s : State) : (s.overrun).readTimeout = s.readTimeout := rfl
@[simp] theorem State.overrun_hsTimeout (s : State) : (s.overrun).hsTimeout = s.hsTimeout := rfl
@[simp] theorem State.overrun_settle (s : State) : (s.overrun).settle = s.settle := rfl
@[simp] theorem State.overrun_dbgCount (s : State) : (s.overrun).dbgCount = s.dbgCount := rfl
@[simp] theorem State.overrun_hsAttempts (s : State) : (s.overrun).hsAttempts = s.hsAttempts := rfl
@[simp] theorem State.overrun_mem (s : State) : (s.overrun).mem = s.mem := rfl
@[simp] theorem State.overrun_seq (s : State) : (s.overrun).seq = s.seq := rfl
@[simp] theorem State.overrun_cmd0 (s : State) : (s.overrun).cmd0 = s.cmd0 := rfl
@[simp] theorem State.overrun_scratch (s : State) : (s.overrun).scratch = s.scratch := rfl
@[simp] theorem State.overrun_cancelPend (s : State) : (s.overrun).cancelPend = s.cancelPend := rfl
@[simp] theorem State.overrun_turns (s : State) : (s.overrun).turns = s.turns := rfl
@[simp] theorem State.overrun_sendAnswers (s : State) : (s.overrun).sendAnswers = s.sendAnswers := rfl
@[simp] theorem State.overrun_recvAnswers (s : State) : (s.overrun).recvAnswers = s.recvAnswers := rfl
@[simp] theorem State.overrun_draws (s : State) : (s.overrun).draws = s.draws := rfl
@[simp] theorem State.overrun_trace (s : State) : (s.overrun).trace = s.trace := rfl
@[simp] theorem State.overrun_busReads (s : State) : (s.overrun).busReads = s.busReads := rfl

/-! ## State.takeTurn -/

@[simp] theorem State.takeTurn_ackEn (s : State) : (s.takeTurn).ackEn = s.ackEn := rfl
@[simp] theorem State.takeTurn_strict (s : State) : (s.takeTurn).strict = s.strict := rfl
@[simp] theorem State.takeTurn_ieDone (s : State) : (s.takeTurn).ieDone = s.ieDone := rfl
@[simp] theorem State.takeTurn_ieFatal (s : State) : (s.takeTurn).ieFatal = s.ieFatal := rfl
@[simp] theorem State.takeTurn_done (s : State) : (s.takeTurn).done = s.done := rfl
@[simp] theorem State.takeTurn_connected (s : State) : (s.takeTurn).connected = s.connected := rfl
@[simp] theorem State.takeTurn_flip (s : State) : (s.takeTurn).flip = s.flip := rfl
@[simp] theorem State.takeTurn_fatal (s : State) : (s.takeTurn).fatal = s.fatal := rfl
@[simp] theorem State.takeTurn_ovr (s : State) : (s.takeTurn).ovr = s.ovr := rfl
@[simp] theorem State.takeTurn_hsState (s : State) : (s.takeTurn).hsState = s.hsState := rfl
@[simp] theorem State.takeTurn_rxState (s : State) : (s.takeTurn).rxState = s.rxState := rfl
@[simp] theorem State.takeTurn_errCode (s : State) : (s.takeTurn).errCode = s.errCode := rfl
@[simp] theorem State.takeTurn_outcome (s : State) : (s.takeTurn).outcome = s.outcome := rfl
@[simp] theorem State.takeTurn_fatalCause (s : State) : (s.takeTurn).fatalCause = s.fatalCause := rfl
@[simp] theorem State.takeTurn_lastOp (s : State) : (s.takeTurn).lastOp = s.lastOp := rfl
@[simp] theorem State.takeTurn_txHdr (s : State) : (s.takeTurn).txHdr = s.txHdr := rfl
@[simp] theorem State.takeTurn_rxHdr (s : State) : (s.takeTurn).rxHdr = s.rxHdr := rfl
@[simp] theorem State.takeTurn_pktCount (s : State) : (s.takeTurn).pktCount = s.pktCount := rfl
@[simp] theorem State.takeTurn_retryCount (s : State) : (s.takeTurn).retryCount = s.retryCount := rfl
@[simp] theorem State.takeTurn_retryLimit (s : State) : (s.takeTurn).retryLimit = s.retryLimit := rfl
@[simp] theorem State.takeTurn_readTimeout (s : State) : (s.takeTurn).readTimeout = s.readTimeout := rfl
@[simp] theorem State.takeTurn_hsTimeout (s : State) : (s.takeTurn).hsTimeout = s.hsTimeout := rfl
@[simp] theorem State.takeTurn_settle (s : State) : (s.takeTurn).settle = s.settle := rfl
@[simp] theorem State.takeTurn_dbgCount (s : State) : (s.takeTurn).dbgCount = s.dbgCount := rfl
@[simp] theorem State.takeTurn_hsAttempts (s : State) : (s.takeTurn).hsAttempts = s.hsAttempts := rfl
@[simp] theorem State.takeTurn_mem (s : State) : (s.takeTurn).mem = s.mem := rfl
@[simp] theorem State.takeTurn_seq (s : State) : (s.takeTurn).seq = s.seq := rfl
@[simp] theorem State.takeTurn_cmd0 (s : State) : (s.takeTurn).cmd0 = s.cmd0 := rfl
@[simp] theorem State.takeTurn_scratch (s : State) : (s.takeTurn).scratch = s.scratch := rfl
@[simp] theorem State.takeTurn_cancelPend (s : State) : (s.takeTurn).cancelPend = s.cancelPend := rfl
@[simp] theorem State.takeTurn_turns (s : State) : (s.takeTurn).turns = s.turns.tail := rfl
@[simp] theorem State.takeTurn_sendAnswers (s : State) : (s.takeTurn).sendAnswers = s.sendAnswers := rfl
@[simp] theorem State.takeTurn_recvAnswers (s : State) : (s.takeTurn).recvAnswers = s.recvAnswers := rfl
@[simp] theorem State.takeTurn_draws (s : State) : (s.takeTurn).draws = if s.turns.isEmpty then s.draws + 1 else s.draws := rfl
@[simp] theorem State.takeTurn_trace (s : State) : (s.takeTurn).trace = s.trace := rfl
@[simp] theorem State.takeTurn_busReads (s : State) : (s.takeTurn).busReads = s.busReads := rfl

end Sys2Proof.Machine
end

