-- ==== Sys2Proof/Laws/Ops.lean ====
section
/-! SUPPORT. The laws of the shared operations: one lemma for what each of them can do, which proofs cite instead of
unfolding it. -/

namespace Sys2Proof.Machine

/-! ## SEQ -/

@[simp] theorem Seq.goto_running (w : Word) (pos q : Pos) : Seq.goto q (.running w pos) = .running w q := rfl

@[simp] theorem Seq.goto_idle (q : Pos) : Seq.goto q .idle = .idle := rfl

@[simp] theorem Seq.word_running (w : Word) (pos : Pos) : Seq.word (.running w pos) = w := rfl

@[simp] theorem Seq.word_goto (q : Pos) (x : Seq) : Seq.word (Seq.goto q x) = Seq.word x := by cases x <;> rfl

/-- In a running command `goto` moves the position and nothing else. -/
theorem State.goto_of_running {s : State} {w : Word} {pos : Pos} (h : s.seq = .running w pos) (q : Pos) :
    s.goto q = { s with seq := .running w q } := by
  unfold State.goto; rw [h]; rfl

/-! ## Ending a command -/

theorem State.finish_of_running {s : State} {w : Word} {pos : Pos} (h : s.seq = .running w pos) (e : ErrCode)
    (o : Reply) : s.finish e o =
      { s with errCode := e, outcome := o, fatalCause := .none, lastOp := opField w, cancelPend := false, done := true,
               seq := .idle } := by
  unfold State.finish; rw [h]; rfl

/-- CheckCancel without a pending cancellation only goes on. -/
theorem State.checkCancel_of_not {s : State} (h : s.cancelPend = false) (scope : CancelScope) (q : Pos) :
    s.checkCancel scope q = s.goto q := by
  unfold State.checkCancel; rw [h]; rfl

/-- A cancellation seen outside CONNECT and Reassemble is the end of the command. -/
theorem State.cancel_plain (s : State) : s.cancel .plain = s.finish .cancelled .none := rfl

/-- A cancellation seen in CONNECT: HS_STATE becomes Failed, and the finish is pending. -/
theorem State.cancel_handshake {s : State} {w : Word} {pos : Pos} (h : s.seq = .running w pos) :
    s.cancel .handshake = { s with hsState := .failed, seq := .running w (.finishing .cancelled .none) } :=
  State.goto_of_running (s := s.setHs .failed) h _

/-- A cancellation seen in a running Reassemble: RX_STATE becomes AwaitFirstPacket, and the finish is pending. -/
theorem State.cancel_reassembly {s : State} {w : Word} {pos : Pos} (h : s.seq = .running w pos) :
    s.cancel .reassembly = { s with rxState := .awaitFirstPacket, seq := .running w (.finishing .cancelled .none) } :=
  State.goto_of_running (s := s.setRx .awaitFirstPacket) h _

/-- CheckCancel with a pending cancellation is that cancellation. -/
theorem State.checkCancel_of_pending {s : State} (h : s.cancelPend = true) (scope : CancelScope) (q : Pos) :
    s.checkCancel scope q = s.cancel scope := by
  unfold State.checkCancel; rw [h]; rfl

/-- CheckCancel does one of the two. -/
theorem State.checkCancel_cases (s : State) (scope : CancelScope) (q : Pos) :
    (s.cancelPend = false ∧ s.checkCancel scope q = s.goto q) ∨
    (s.cancelPend = true ∧ s.checkCancel scope q = s.cancel scope) := by
  cases h : s.cancelPend
  · exact .inl ⟨rfl, s.checkCancel_of_not h scope q⟩
  · exact .inr ⟨rfl, s.checkCancel_of_pending h scope q⟩

/-! ## The Transport -/

theorem State.sendAnswer_of_cons {s : State} {a : SendAnswer} {rest : List SendAnswer}
    (h : s.sendAnswers = a :: rest) : s.sendAnswer = a := by
  unfold State.sendAnswer; rw [h]; rfl

/-- A Send whose answer is decided uses it up and records the call. -/
theorem State.sent_of_cons {s : State} {a : SendAnswer} {rest : List SendAnswer} (h : s.sendAnswers = a :: rest)
    (p : Bytes) : s.sent p = { s with sendAnswers := rest, trace := s.trace ++ [.send p (some a)] } := by
  unfold State.sent; rw [State.sendAnswer_of_cons h, h]; rfl

theorem State.recvAnswer_of_cons {s : State} {a : RecvAnswer} {rest : List RecvAnswer}
    (h : s.recvAnswers = a :: rest) : s.recvAnswer = RecvAnswer.clip a := by
  unfold State.recvAnswer; rw [h]; rfl

/-- A Recv whose answer is decided uses it up and records the call. -/
theorem State.received_of_cons {s : State} {a : RecvAnswer} {rest : List RecvAnswer} (h : s.recvAnswers = a :: rest)
    (t : Word) :
    s.received t = { s with recvAnswers := rest, trace := s.trace ++ [.recv t (some (RecvAnswer.clip a))] } := by
  unfold State.received; rw [State.recvAnswer_of_cons h, h]; rfl

/-- A string that the Transport can deliver is delivered whole. -/
theorem RecvAnswer.clip_pkt {b : Bytes} (h : b.length ≤ 64) : RecvAnswer.clip (.pkt b) = .pkt b := by
  unfold RecvAnswer.clip; simp [Config.mtu, List.take_of_length_le h]

/-- 20_memory.md R77: a received string has at most 64 bytes. -/
theorem State.recvAnswer_length (s : State) {b : Bytes} (h : s.recvAnswer = .pkt b) : b.length ≤ 64 := by
  unfold State.recvAnswer RecvAnswer.clip at h
  split at h
  · cases h; simp [Config.mtu]
  · cases h
  · cases h

/-! ## The buffers -/

/-- Every byte after `StorePkt`. -/
theorem State.read_storePkt (s : State) (ps : List Bytes) (a : Nat) :
    Memory.read (s.storePkt ps).mem a =
      if 0x1000 ≤ a ∧ a < 0x1400 then (padTo 1024 ps.flatten).getD (a - 0x1000) 0 else Memory.read s.mem a := by
  rw [State.storePkt_mem, Memory.read_writeRange]
  simp only [pktBase, Config.pktMax, Config.mtu, length_padTo]

/-- The packet buffer after `StorePkt` of at most 16 packets of 64 bytes: the packets, then zeros. -/
theorem State.packet_storePkt (s : State) {ps : List Bytes} (hl : ∀ q ∈ ps, q.length = 64) (hn : ps.length ≤ 16) {i : Nat}
    (hi : i < 16) : (s.storePkt ps).packet i = (ps[i]?).getD (List.replicate 64 0) := by
  unfold State.packet
  rw [State.storePkt_mem]
  simp only [Config.pktMax, Config.mtu]
  rw [Memory.readRange_writeRange_part _ _ _ _ _ (by simp; omega)]
  exact packet_of_flatten ps hl hn hi

/-- Packets that read alike are the same. -/
theorem State.packet_congr {s t : State} (h : ∀ a, 0x1000 ≤ a → a < 0x1400 → Memory.read s.mem a = Memory.read t.mem a)
    {i : Nat} (hi : i < 16) : s.packet i = t.packet i := by
  refine Memory.readRange_congr fun a h1 h2 => h a ?_ ?_
  · simp only [pktBase] at h1; omega
  · simp only [pktBase, Config.mtu] at h2; omega

/-- Every byte after `Commit`. -/
theorem State.read_commit (s : State) (c l : Half) (acc : Bytes) (a : Nat) :
    Memory.read (s.commit c l acc).mem a =
      if 0x800 ≤ a ∧ a < 0xBDC then (padTo 988 (acc.take l.toNat)).getD (a - 0x800) 0 else Memory.read s.mem a := by
  rw [State.commit_mem, Memory.read_writeRange]
  simp only [rxBase, Config.msgMax, length_padTo]

theorem State.commit_rxCommand (s : State) (c l : Half) (acc : Bytes) : (s.commit c l acc).rxCommand = c := by
  unfold State.rxCommand; rw [State.commit_rxHdr]; exact extractLsb'_append_right _ _

theorem State.commit_rxLength (s : State) (c l : Half) (acc : Bytes) : (s.commit c l acc).rxLength = l := by
  unfold State.rxLength; rw [State.commit_rxHdr]; exact extractLsb'_append_left _ _

/-- The payload after the commit of a message whose length is that of its data. -/
theorem State.commit_rxPayload (s : State) (c l : Half) {acc : Bytes} (h : acc.length = l.toNat) (h' : l.toNat ≤ 988) :
    (s.commit c l acc).rxPayload = acc := by
  unfold State.rxPayload
  rw [State.commit_rxLength, State.commit_mem]
  have := Memory.readRange_writeRange_part s.mem rxBase (padTo Config.msgMax (acc.take l.toNat)) 0 l.toNat
    (by simp [Config.msgMax]; omega)
  rw [Nat.add_zero] at this
  rw [this, List.drop_zero, padTo, List.take_take, List.take_of_length_le (l := acc) (by omega),
    show min l.toNat Config.msgMax = l.toNat by simp only [Config.msgMax]; omega,
    List.take_append_of_le_length (by omega), List.take_of_length_le (by omega)]

end Sys2Proof.Machine
end

