-- ==== Sys2Proof/Laws/PerInstr.lean ====
section
/-! SUPPORT. The laws stated one command at a time: the word that `encode` writes is the command's row of the opcode table
(30_encoding.md R92), with every reserved bit 0 (R90). -/

namespace Sys2Proof.Laws.EncodedWord

/-- Under the table's mask the encoded word is the row's match, and bits 31:10 are 0. -/
def Statement (i : Instr) : Prop := encode i &&& tableMask = tableMatch i ∧ reservedField (encode i) = 0

theorem encode : Statement .encode := by unfold Statement; decide

theorem consume (eot : Bool) : Statement (.consume eot) := by unfold Statement; cases eot <;> decide

theorem advance : Statement .advance := by unfold Statement; decide

theorem resetFlip (arg : Bool) : Statement (.resetFlip arg) := by unfold Statement; cases arg <;> decide

theorem request (arg eot : Bool) : Statement (.request arg eot) := by
  unfold Statement; cases arg <;> cases eot <;> decide

theorem sendOnly (eot : Bool) : Statement (.sendOnly eot) := by unfold Statement; cases eot <;> decide

theorem connect : Statement .connect := by unfold Statement; decide

theorem disconnect : Statement .disconnect := by unfold Statement; decide

end Sys2Proof.Laws.EncodedWord
end

