-- ==== Sys2Proof/Laws/Run.lean ====
section
/-! SUPPORT. The laws of runs of the sequencer: one turn, and runs one after the other. -/

namespace Sys2Proof.Machine

/-- One turn of the sequencer in a legal command is that command's line. -/
theorem sequencerStep_of_decode {s : State} {w : Word} {pos : Pos} {i : Instr} (hs : s.seq = .running w pos)
    (hd : decode w = .ok i) : sequencerStep s = exec i s := by
  unfold sequencerStep; rw [hs]; simp only [hd]

theorem sequencerRun_succ {s s' : State} (h : sequencerStep s = .next s') (n : Nat) :
    sequencerRun (n + 1) s = sequencerRun n s' := by
  rw [sequencerRun, h]

theorem sequencerRun_add {s t : State} {m : Nat} (h : sequencerRun m s = .next t) (n : Nat) :
    sequencerRun (m + n) s = sequencerRun n t := by
  induction m generalizing s with
  | zero => cases h; rw [Nat.zero_add]
  | succ m ih =>
    rw [sequencerRun] at h
    rw [show m + 1 + n = (m + n) + 1 by omega, sequencerRun]
    cases hq : sequencerStep s with
    | next s' => rw [hq] at h; exact ih h
    | fault f => rw [hq] at h; cases h
    | refused r => rw [hq] at h; cases h

theorem RunsTo.refl (s : State) : RunsTo s s := ⟨0, rfl⟩

theorem RunsTo.trans {s t u : State} (h₁ : RunsTo s t) (h₂ : RunsTo t u) : RunsTo s u := by
  obtain ⟨m, hm⟩ := h₁
  obtain ⟨n, hn⟩ := h₂
  exact ⟨m + n, by rw [sequencerRun_add hm, hn]⟩

/-- One line of the running command, then the rest. -/
theorem RunsTo.head {s s' t : State} {w : Word} {pos : Pos} {i : Instr} (hs : s.seq = .running w pos)
    (hd : decode w = .ok i) (he : exec i s = .next s') (h : RunsTo s' t) : RunsTo s t :=
  RunsTo.trans ⟨1, by rw [sequencerRun_succ ((sequencerStep_of_decode hs hd).trans he)]; rfl⟩ h

/-- The end of a command, as its record of it. -/
theorem State.finish_ended {s : State} {w : Word} {pos : Pos} (h : s.seq = .running w pos) (e : ErrCode) (o : Reply) :
    Ended w e o (s.finish e o) := by
  rw [State.finish_of_running h]
  exact ⟨rfl, rfl, rfl, rfl, rfl, rfl, rfl⟩

end Sys2Proof.Machine
end

