-- ==== Sys2Proof/Laws/Reassembly.lean ====
section
/-! SUPPORT. The laws of the Reassembly State Machine: what one received string does to a stream, what the validation and
the dispatch do, and that CONSUME and REQUEST run the same lines of Reassemble. -/

namespace Sys2Proof.Machine

/-! ## One received string -/

/-- The checks that fail a string with BAD_PACKET (41_reassembly.md R154). -/
abbrev BadPacket (first : Bool) (b : Bytes) : Prop :=
  b.length < 2 ∨ 62 < plenOf (b.getD 0 0) ∨ b.length < 2 + plenOf (b.getD 0 0) ∨ (first = true ∧ b.length < 6)

theorem rxPacket_bad {strict : Bool} {sc : Scratch} {b : Bytes} (h : BadPacket sc.first b) :
    rxPacket strict sc b = .failed .badPacket := by
  unfold rxPacket
  simp only [Config.payloadMax]
  by_cases h1 : b.length < 2
  · rw [if_pos h1]
  by_cases h2 : 62 < plenOf (b.getD 0 0)
  · rw [if_neg h1, if_pos h2]
  by_cases h3 : b.length < 2 + plenOf (b.getD 0 0)
  · rw [if_neg h1, if_neg h2, if_pos h3]
  have h4 : sc.first = true ∧ b.length < 6 := by
    rcases h with h | h | h | h
    exacts [absurd h h1, absurd h h2, absurd h h3, h]
  rw [if_neg h1, if_neg h2, if_neg h3, if_pos (by simpa using h4)]

/-- A string that passes the first checks (41_reassembly.md R154). -/
theorem rxPacket_of_not_bad {strict : Bool} {sc : Scratch} {b : Bytes} (h : ¬ BadPacket sc.first b) :
    rxPacket strict sc b =
      if 16 < sc.k + 1 then .failed .streamTooLong
      else if strict && sc.inconsistent (idxOf (b.getD 1 0)) (totOf (b.getD 1 0)) then .failed .streamInconsistent
      else if sc.first then
        .accepted (sc.takeFirst b (plenOf (b.getD 0 0)) (idxOf (b.getD 1 0)) (totOf (b.getD 1 0)))
          (idxOf (b.getD 1 0) == totOf (b.getD 1 0))
      else
        .accepted (sc.takeNext b (plenOf (b.getD 0 0)) (idxOf (b.getD 1 0)))
          (idxOf (b.getD 1 0) == totOf (b.getD 1 0)) := by
  unfold BadPacket at h
  push Not at h
  obtain ⟨h1, h2, h3, h4⟩ := h
  unfold rxPacket
  simp only [Config.payloadMax, Config.pktMax]
  rw [if_neg (by omega), if_neg (by omega), if_neg (by omega), if_neg]
  simpa using h4

/-- The strict stream check, as a proposition (41_reassembly.md R158). -/
theorem Scratch.inconsistent_iff (sc : Scratch) (idx tot : BitVec 4) :
    sc.inconsistent idx tot = true ↔
      if sc.first then idx.toNat ≠ 0 else idx.toNat ≠ sc.prevIdx.toNat + 1 ∨ tot ≠ sc.tot0 := by
  have h0 : (idx ≠ 0) ↔ idx.toNat ≠ 0 := not_congr ⟨fun e => by rw [e]; rfl, fun e => BitVec.eq_of_toNat_eq e⟩
  unfold Scratch.inconsistent
  cases sc.first
  · simp
  · simpa using h0

/-! ## The end of a stream -/

/-- 41_reassembly.md R164, over integers. -/
theorem Scratch.valid_iff (sc : Scratch) :
    sc.valid = true ↔ sc.acc.length = sc.length.toNat ∧ sc.acc.length + 4 = sc.sum := by
  unfold Scratch.valid
  rw [Bool.and_eq_true, beq_iff_eq, beq_iff_eq]

theorem dispatchStream_of_invalid {s : State} (h : s.scratch.valid = false) (p : Config.Params) :
    s.dispatchStream p = (s.setRx .failed).goto (.reassembled (.fail .lengthMismatch)) := by
  unfold State.dispatchStream; rw [h]; rfl

theorem dispatchStream_debug {p : Config.Params} {s : State} (h : s.scratch.valid = true)
    (hc : s.scratch.command = p.cmdDbgMessage) :
    s.dispatchStream p = (s.record (.debugLine (debugUnits s.scratch.length s.scratch.acc))).goto .debugCount := by
  unfold State.dispatchStream; rw [if_pos h, if_pos hc]

theorem dispatchStream_retry {p : Config.Params} {s : State} (h : s.scratch.valid = true)
    (hc : s.scratch.command = p.cmdIdRetry) : s.dispatchStream p = s.goto (.reassembled .retry) := by
  unfold State.dispatchStream
  rw [if_pos h, if_neg (by rw [hc]; exact p.codes_distinct.1.symm), if_pos hc]

theorem dispatchStream_message {p : Config.Params} {s : State} (h : s.scratch.valid = true)
    (h₁ : s.scratch.command ≠ p.cmdDbgMessage) (h₂ : s.scratch.command ≠ p.cmdIdRetry) :
    s.dispatchStream p = (s.commit s.scratch.command s.scratch.length s.scratch.acc).goto (.reassembled .msg) := by
  unfold State.dispatchStream; rw [if_pos h, if_neg h₁, if_neg h₂]

/-! ## The lines of Reassemble -/

/-- The positions that `reassembleLine` answers. -/
def reassembleLinePos : Pos → Bool
  | .streamStart | .rxCheck | .receiving | .streamComplete | .validate | .debugCount => true
  | _ => false

/-- CONSUME runs the lines of Reassemble. -/
theorem exec_consume_reassemble {eot : Bool} {s : State} {w : Word} {pos : Pos} (hs : s.seq = .running w pos)
    (hp : reassembleLinePos pos = true) :
    exec (.consume eot) s = reassembleLine Config.params eot pos s := by
  show consumeLine _ _ _ = _
  unfold consumeLine
  rw [hs]
  cases pos <;> first | rfl | cases hp

/-- REQUEST runs the lines of Reassemble. -/
theorem exec_request_reassemble {arg eot : Bool} {s : State} {w : Word} {pos : Pos} (hs : s.seq = .running w pos)
    (hp : reassembleLinePos pos = true) :
    exec (.request arg eot) s = reassembleLine Config.params eot pos s := by
  show requestLine _ _ _ _ = _
  unfold requestLine
  rw [hs]
  cases pos <;> first | rfl | cases hp

end Sys2Proof.Machine
end

