-- ==== Sys2Proof/Laws/Streams.lean ====
section
/-! SUPPORT. The laws of whole streams: the runs of TransmitStream and Reassemble over a Transport whose answers are
decided, and how a stream is fed to the scratch. -/

namespace Sys2Proof.Machine

/-! ## TransmitStream -/

/-- The lines of TransmitStream, for the commands that run it. -/
theorem exec_transmitLine {i : Instr} {eot : Bool} (hi : i = .sendOnly eot ∨ ∃ arg, i = .request arg eot) {s : State}
    {w : Word} {pos : Pos} (hs : s.seq = .running w pos) (hp : transmitPos pos = true) (hq : pos ≠ .transmitted) :
    exec i s = transmitLine eot pos s := by
  rcases hi with rfl | ⟨arg, rfl⟩
  · show execSendOnly _ _ = _
    unfold execSendOnly; rw [hs]
    cases pos <;> first | rfl | exact absurd rfl hq | cases hp
  · show requestLine _ _ _ _ = _
    unfold requestLine; rw [hs]
    cases pos <;> first | rfl | exact absurd rfl hq | cases hp

/-- One packet that the Transport answers with OK: CheckCancel, Send, CheckCancel, Wait(SETTLE). -/
theorem RunsTo.packet {i : Instr} {eot : Bool} (hi : i = .sendOnly eot ∨ ∃ arg, i = .request arg eot) {s : State}
    {w : Word} {j : Nat} {rest : List SendAnswer} (hd : decode w = .ok i) (hs : s.seq = .running w (.transmit j))
    (hc : s.cancelPend = false) (ha : s.sendAnswers = .ok :: rest) (hj : j < s.pktCount.toNat) :
    RunsTo s
      { s with seq := .running w (.transmit (j + 1)), sendAnswers := rest,
               trace := s.trace ++ [.send (s.packet j) (some .ok), .wait s.settle] } := by
  have answered : ∀ t : State, t.seq = .running w (.sending j) → t.sendAnswers = .ok :: rest →
      exec i t = .next { t with seq := .running w (.settleCheck j), sendAnswers := rest,
                                trace := t.trace ++ [.send (t.packet j) (some .ok)] } := by
    intro t ht hb
    rw [exec_transmitLine hi ht rfl (by simp)]
    simp only [transmitLine, State.sendPacket]
    rw [State.sendAnswer_of_cons hb]
    simp only
    rw [State.sent_of_cons hb, State.goto_of_running (w := w) (pos := .sending j) (by exact ht)]
  have checked : ∀ t : State, t.seq = .running w (.settleCheck j) → t.cancelPend = false →
      exec i t = .next { t with seq := .running w (.settling j) } := by
    intro t ht hb
    rw [exec_transmitLine hi ht rfl (by simp)]
    simp only [transmitLine]
    rw [State.checkCancel_of_not hb, State.goto_of_running ht]
  have settled : ∀ t : State, t.seq = .running w (.settling j) →
      exec i t = .next { t with seq := .running w (.transmit (j + 1)), trace := t.trace ++ [.wait t.settle] } := by
    intro t ht
    rw [exec_transmitLine hi ht rfl (by simp)]
    simp only [transmitLine]
    rw [State.goto_of_running (w := w) (pos := .settling j) (by exact ht)]
    rfl
  have head : exec i s = .next { s with seq := .running w (.sending j) } := by
    rw [exec_transmitLine hi hs rfl (by simp)]
    simp only [transmitLine, State.transmitHead, if_pos hj]
    rw [State.checkCancel_of_not hc, State.goto_of_running hs]
  refine RunsTo.head hs hd head (RunsTo.head rfl hd (answered _ rfl ha) (RunsTo.head rfl hd (checked _ rfl hc)
    (RunsTo.head rfl hd (settled _ rfl) ?_)))
  simpa [State.packet] using RunsTo.refl _

/-- The rest of a stream, from packet `j`. -/
theorem RunsTo.transmit {i : Instr} {eot : Bool} (hi : i = .sendOnly eot ∨ ∃ arg, i = .request arg eot) {w : Word}
    {rest : List SendAnswer} (hd : decode w = .ok i) (m : Nat) {s : State} {j : Nat}
    (hs : s.seq = .running w (.transmit j)) (hc : s.cancelPend = false)
    (ha : s.sendAnswers = List.replicate m .ok ++ rest) (hj : j + m = s.pktCount.toNat) :
    RunsTo s
      { s with seq := .running w .transmitted, sendAnswers := rest,
               trace := s.trace ++ sendEvents s.settle ((List.range' j m).map s.packet) } := by
  induction m generalizing s j with
  | zero =>
    have hr : s.sendAnswers = rest := by simpa using ha
    refine RunsTo.head (s' := { s with seq := .running w .transmitted }) hs hd ?_ ?_
    · rw [exec_transmitLine hi hs rfl (by simp)]
      simp only [transmitLine, State.transmitHead, if_neg (show ¬ j < s.pktCount.toNat by omega)]
      rw [State.goto_of_running hs]
    · rw [← hr]
      simpa [sendEvents] using RunsTo.refl _
  | succ m ih =>
    refine RunsTo.trans (RunsTo.packet hi hd hs hc (rest := List.replicate m .ok ++ rest)
      (by simpa [List.replicate_succ] using ha) (by omega)) ?_
    have := ih (s := { s with
      seq := .running w (.transmit (j + 1)), sendAnswers := List.replicate m .ok ++ rest,
      trace := s.trace ++ [.send (s.packet j) (some .ok), .wait s.settle] }) rfl hc rfl (by simpa using by omega)
    have events : s.trace ++ sendEvents s.settle ((List.range' j (m + 1)).map s.packet) =
        (s.trace ++ [.send (s.packet j) (some .ok), .wait s.settle]) ++
          sendEvents s.settle ((List.range' (j + 1) m).map s.packet) := by
      simp [sendEvents, List.range'_succ]
    rw [events]
    exact this

/-! ## Reassemble -/

/-- A stream's first string overwrites every part of the scratch but the counters. -/
theorem rxPacket_congr_first {strict : Bool} {sc sc' : Scratch} (h : sc.first = true) (h' : sc'.first = true)
    (hk : sc.k = sc'.k) (hs : sc.sum = sc'.sum) (b : Bytes) : rxPacket strict sc b = rxPacket strict sc' b := by
  unfold rxPacket Scratch.inconsistent Scratch.takeFirst
  simp only [h, h', hk, hs, if_true]

theorem feedStream_congr_first {strict : Bool} {sc sc' : Scratch} (h : sc.first = true) (h' : sc'.first = true)
    (hk : sc.k = sc'.k) (hs : sc.sum = sc'.sum) (bs : List Bytes) : feedStream strict sc bs = feedStream strict sc' bs := by
  cases bs with
  | nil => rfl
  | cons b bs => rw [feedStream, feedStream, rxPacket_congr_first h h' hk hs]

/-- The strings of a stream, received one by one, to the validation. -/
theorem RunsTo.receiveStream {i : Instr} (hi : (∃ eot, i = .consume eot) ∨ ∃ arg eot, i = .request arg eot) {w : Word}
    {rest : List RecvAnswer} {sc' : Scratch} (hd : decode w = .ok i) (bs : List Bytes) {s : State}
    (hs : s.seq = .running w .rxCheck) (hc : s.cancelPend = false) (hl : ∀ b ∈ bs, b.length ≤ 64)
    (ha : s.recvAnswers = bs.map RecvAnswer.pkt ++ rest) (hf : feedStream s.strict s.scratch bs = some sc') :
    RunsTo s
      { s with seq := .running w .validate, rxState := .complete, scratch := sc', recvAnswers := rest,
               trace := s.trace ++ recvEvents s.readTimeout bs } := by
  have line : ∀ {t : State} {pos : Pos}, t.seq = .running w pos → reassembleLinePos pos = true →
      ∃ eot, exec i t = reassembleLine Config.params eot pos t := by
    intro t pos ht hp
    rcases hi with ⟨eot, rfl⟩ | ⟨arg, eot, rfl⟩
    · exact ⟨eot, exec_consume_reassemble ht hp⟩
    · exact ⟨eot, exec_request_reassemble ht hp⟩
  induction bs generalizing s with
  | nil => cases hf
  | cons b bs ih =>
    have hb : b.length ≤ 64 := hl b (by simp)
    rw [List.map_cons, List.cons_append] at ha
    refine RunsTo.head (s' := { s with seq := .running w .receiving }) hs hd ?_ ?_
    · obtain ⟨eot, he⟩ := line hs rfl
      rw [he]
      simp only [reassembleLine]
      rw [State.checkCancel_of_not hc, State.goto_of_running hs]
    rw [feedStream] at hf
    cases hr : rxPacket s.strict s.scratch b with
    | failed c => rw [hr] at hf; cases hf
    | accepted sc complete =>
      rw [hr] at hf
      simp only at hf
      have taken : ∀ t : State, t.seq = .running w .receiving →
          t.recvAnswers = .pkt b :: (bs.map RecvAnswer.pkt ++ rest) → rxPacket t.strict t.scratch b = .accepted sc complete →
          exec i t = .next { t with
            seq := .running w (if complete then .streamComplete else .rxCheck), scratch := sc
            rxState := if t.scratch.first then .accumulatingContinuation else t.rxState
            recvAnswers := bs.map RecvAnswer.pkt ++ rest
            trace := t.trace ++ [.recv t.readTimeout (some (.pkt b))] } := by
        intro t ht hq hv
        obtain ⟨eot, he⟩ := line ht rfl
        rw [he]
        simp only [reassembleLine, State.receivePacket]
        rw [State.recvAnswer_of_cons hq, State.received_of_cons hq, RecvAnswer.clip_pkt hb]
        simp only [State.takePacket, hv]
        rw [State.goto_of_running (w := w) (pos := .receiving) (by exact ht)]
      refine RunsTo.head rfl hd (taken _ rfl ha hr) ?_
      cases complete with
      | true =>
        simp only [if_true] at hf ⊢
        split at hf
        · rename_i hnil
          subst hnil
          cases hf
          have completed : ∀ t : State, t.seq = .running w .streamComplete →
              exec i t = .next { t with seq := .running w .validate, rxState := .complete } := by
            intro t ht
            obtain ⟨eot, he⟩ := line ht rfl
            rw [he]
            simp only [reassembleLine]
            rw [State.goto_of_running (w := w) (pos := .streamComplete) (by exact ht)]
            rfl
          exact RunsTo.head rfl hd (completed _ rfl) (RunsTo.refl _)
        · cases hf
      | false =>
        simp only [Bool.false_eq_true, if_false] at hf ⊢
        have := ih (s := { s with
          seq := .running w .rxCheck, scratch := sc
          rxState := if s.scratch.first then .accumulatingContinuation else s.rxState
          recvAnswers := bs.map RecvAnswer.pkt ++ rest
          trace := s.trace ++ [.recv s.readTimeout (some (.pkt b))] }) rfl hc (fun c hc' => hl c (by simp [hc'])) rfl hf
        simpa [recvEvents] using this

/-- One whole stream, from the head of Reassemble's loop to the validation. -/
theorem RunsTo.stream {i : Instr} (hi : (∃ eot, i = .consume eot) ∨ ∃ arg eot, i = .request arg eot) {w : Word}
    {rest : List RecvAnswer} {sc' : Scratch} (hd : decode w = .ok i) {bs : List Bytes} {s : State}
    (hs : s.seq = .running w .rxCheck) (hfirst : s.scratch.first = true) (hk : s.scratch.k = 0)
    (hsum : s.scratch.sum = 0) (hc : s.cancelPend = false) (hl : ∀ b ∈ bs, b.length ≤ 64)
    (ha : s.recvAnswers = bs.map RecvAnswer.pkt ++ rest) (hf : feedStream s.strict Scratch.reset bs = some sc') :
    RunsTo s
      { s with seq := .running w .validate, rxState := .complete, scratch := sc', recvAnswers := rest,
               trace := s.trace ++ recvEvents s.readTimeout bs } :=
  RunsTo.receiveStream hi hd bs hs hc hl ha
    (by rw [feedStream_congr_first (sc' := Scratch.reset) hfirst rfl hk hsum]; exact hf)

end Sys2Proof.Machine
end

