-- ==== Sys2Proof/Laws/Window.lean ====
section
/-! SUPPORT. The laws of the host window: the address ranges as inequalities, the register map, the lock, and what a
permitted access of each kind does. -/

namespace Sys2Proof.Machine

/-! ## Addresses -/

theorem inTx_iff (a : Nat) : inTx a = true ↔ 0x400 ≤ a ∧ a < 0x7DC := by
  unfold inTx; rw [Bool.and_eq_true, decide_eq_true_iff, decide_eq_true_iff]; exact Iff.rfl

theorem inRx_iff (a : Nat) : inRx a = true ↔ 0x800 ≤ a ∧ a < 0xBDC := by
  unfold inRx; rw [Bool.and_eq_true, decide_eq_true_iff, decide_eq_true_iff]; exact Iff.rfl

theorem inPkt_iff (a : Nat) : inPkt a = true ↔ 0x1000 ≤ a ∧ a < 0x1400 := by
  unfold inPkt; rw [Bool.and_eq_true, decide_eq_true_iff, decide_eq_true_iff]; exact Iff.rfl

theorem inRef_iff (a : Nat) : inRef a = true ↔ 0x1400 ≤ a ∧ a < 0x1440 := by
  unfold inRef; rw [Bool.and_eq_true, decide_eq_true_iff, decide_eq_true_iff]; exact Iff.rfl

theorem inBuffer_iff (a : Nat) : inBuffer a = true ↔
    (0x400 ≤ a ∧ a < 0x7DC) ∨ (0x800 ≤ a ∧ a < 0xBDC) ∨ (0x1000 ≤ a ∧ a < 0x1440) := by
  unfold inBuffer
  rw [Bool.or_eq_true, Bool.or_eq_true, Bool.or_eq_true, inTx_iff, inRx_iff, inPkt_iff, inRef_iff]
  omega

/-- 20_memory.md R63: the accesses that are no bus error. -/
theorem permitted_iff (width : Width) (off : Offset) :
    permitted width off = true ↔ off.toNat % Width.bytes width = 0 ∧ (0x400 ≤ off.toNat ∨ width = .word) := by
  unfold permitted registerAreaEnd
  rw [Bool.and_eq_true, beq_iff_eq, Bool.or_eq_true, decide_eq_true_iff, beq_iff_eq]

theorem Width.bytes_pos (w : Width) : 1 ≤ Width.bytes w ∧ Width.bytes w ≤ 4 := by cases w <;> decide

/-! ## The register map -/

@[simp] theorem regAt_offset (r : Reg) : regAt (Reg.offset r) = some r := by cases r <;> rfl

theorem regAt_eq_none {n : Nat} (h : 0x44 ≤ n) : regAt n = none := by
  unfold regAt
  split <;> first | rfl | omega

/-! ## Accesses -/

theorem hostAccess_read_of_permitted {p : Config.Params} {width : Width} {off : Offset} {s : State}
    (h : permitted width off = true) :
    hostAccess p (.read width off) s = .next (s.noteRead width off (s.hostRead p width off)) := by
  unfold hostAccess; exact if_pos h

theorem hostAccess_write_of_permitted {p : Config.Params} {width : Width} {off : Offset} {v : Word} {s : State}
    (h : permitted width off = true) :
    hostAccess p (.write width off v) s = .next (s.hostWrite width off v) := by
  unfold hostAccess; exact if_pos h

theorem hostAccess_read_of_not {p : Config.Params} {width : Width} {off : Offset} {s : State}
    (h : permitted width off = false) : hostAccess p (.read width off) s = .fault .busError := by
  unfold hostAccess; exact if_neg (by rw [h]; decide)

theorem hostAccess_write_of_not {p : Config.Params} {width : Width} {off : Offset} {v : Word} {s : State}
    (h : permitted width off = false) : hostAccess p (.write width off v) s = .fault .busError := by
  unfold hostAccess; exact if_neg (by rw [h]; decide)

/-- A register write by name. -/
theorem hostAccess_wr (p : Config.Params) (r : Reg) (v : Word) (s : State) :
    hostAccess p (wr r v) s = .next (s.writeReg r v) := by cases r <;> rfl

/-- A register read by name. -/
theorem hostRead_reg (p : Config.Params) (r : Reg) (s : State) : s.hostRead p .word (Reg.off r) = s.readReg p r := by
  cases r <;> rfl

/-- A write above the register area. -/
theorem hostWrite_of_le {width : Width} {off : Offset} {v : Word} {s : State} (h : 0x400 ≤ off.toNat) :
    s.hostWrite width off v =
      if inTx off.toNat then s.configure (State.setTxData width off.toNat v) else s := by
  unfold State.hostWrite; exact if_neg (by unfold registerAreaEnd; omega)

/-- A write in the register area. -/
theorem hostWrite_of_lt {width : Width} {off : Offset} {v : Word} {s : State} (h : off.toNat < 0x400) :
    s.hostWrite width off v = match regAt off.toNat with
      | some r => s.writeReg r v
      | none => s := by
  unfold State.hostWrite; exact if_pos h

/-- A read above the register area. -/
theorem hostRead_of_le {p : Config.Params} {width : Width} {off : Offset} {s : State} (h : 0x400 ≤ off.toNat) :
    s.hostRead p width off =
      BitVec.ofNat 32 (leNat ((List.range (Width.bytes width)).map fun i => s.bufferByte (off.toNat + i))) := by
  unfold State.hostRead; exact if_neg (by unfold registerAreaEnd; omega)

/-- A read in the register area. -/
theorem hostRead_of_lt {p : Config.Params} {width : Width} {off : Offset} {s : State} (h : off.toNat < 0x400) :
    s.hostRead p width off = match regAt off.toNat with
      | some r => s.readReg p r
      | none => 0 := by
  unfold State.hostRead; exact if_pos h

/-! ## The lock -/

theorem State.busy_iff (s : State) : s.busy = true ↔ s.seq ≠ .idle := by
  unfold State.busy
  cases s.seq <;> simp

theorem State.locked_iff (s : State) : s.locked = true ↔ s.seq ≠ .idle ∨ s.fatal = true := by
  unfold State.locked; rw [Bool.or_eq_true, State.busy_iff]

theorem State.locked_eq_false {s : State} (h₁ : s.seq = .idle) (h₂ : s.fatal = false) : s.locked = false := by
  unfold State.locked State.busy; rw [h₁, h₂]; rfl

theorem State.configure_of_locked {s : State} (h : s.locked = true) (f : State → State) : s.configure f = s.overrun := by
  unfold State.configure; exact if_pos h

theorem State.configure_of_not {s : State} (h : s.locked = false) (f : State → State) : s.configure f = f s := by
  unfold State.configure; exact if_neg (by rw [h]; decide)

theorem State.writeCmd_of_locked {s : State} (h : s.locked = true) (w : Word) : s.writeCmd w = s.overrun := by
  unfold State.writeCmd; exact if_pos h

theorem State.writeCmd_of_not {s : State} (h : s.locked = false) (w : Word) : s.writeCmd w = s.accept w := by
  unfold State.writeCmd; exact if_neg (by rw [h]; decide)

/-- 30_encoding.md R93: the acceptance of a legal word. -/
theorem State.accept_of_ok {w : Word} {i : Instr} (h : decode w = .ok i) (s : State) :
    s.accept w = { s with seq := .running w .start, done := false, cancelPend := false } := by
  unfold State.accept; rw [h]

/-- 30_encoding.md R95: the acceptance of an illegal word. -/
theorem State.accept_of_error {w : Word} {e : DecodeError} (h : decode w = .error e) (s : State) :
    s.accept w =
      { s with errCode := .illegalCommand, outcome := .none, fatalCause := .none, lastOp := opField w,
               cancelPend := false, done := true, seq := .idle } := by
  unfold State.accept; rw [h]; rfl

/-- The bytes of a bus value, read one by one. -/
theorem leBytes_getD (n : Nat) (v : Word) {j : Nat} (h : j < n) : (leBytes n v).getD j 0 = v.extractLsb' (8 * j) 8 := by
  simp [leBytes, List.getD_eq_getElem?_getD, h]

@[simp] theorem length_leBytes (n : Nat) (v : Word) : (leBytes n v).length = n := by simp [leBytes]

end Sys2Proof.Machine
end

