-- ==== Sys2Proof/Tests/Slice0.lean ====
section
/-! SUPPORT. The model's own tests: the well-formedness smoke tests, the decoding of words written out from
30_encoding.md, small one-line tests from 95_test_vectors.md, and for every obligation with hypotheses a witness that
meets them. -/

namespace Sys2Proof.Tests
open Sys2Proof Sys2Proof.Machine

/-! ## Well-formedness: each check refuses an ill-formed term -/

theorem test_packet_of_63_bytes_is_ill_formed : Bytes.packetWf (zeros 63) = false := by decide
theorem test_packet_of_64_bytes_is_well_formed : Bytes.packetWf marker = true := by decide
theorem test_received_string_of_65_bytes_is_ill_formed : RecvAnswer.wf (.pkt (zeros 65)) = false := by decide
theorem test_received_string_of_64_bytes_is_well_formed : RecvAnswer.wf (.pkt (zeros 64)) = true := by decide
theorem test_byte_write_in_the_register_area_is_ill_formed : HostLine.wf (.wrb 0x3FF 0) = false := by decide
theorem test_msg_of_989_bytes_is_ill_formed : HostLine.wf (.msg 0 (zeros 989)) = false := by
  simp only [HostLine.wf, length_zeros]
  decide

/-! ## Decoding: words written out from the encoding (30_encoding.md R90 to R96) -/

theorem test_decode_encode : decode 0b00000000000000000000000000000001 = .ok .encode := by decide
theorem test_decode_consume : decode 0b00000000000000000000001000000010 = .ok (.consume true) := by decide
theorem test_decode_advance : decode 0b00000000000000000000000000000011 = .ok .advance := by decide
theorem test_decode_resetFlip : decode 0b00000000000000000000000100000100 = .ok (.resetFlip true) := by decide
theorem test_decode_request : decode 0b00000000000000000000000100000101 = .ok (.request true false) := by decide
theorem test_decode_sendOnly : decode 0b00000000000000000000001000000110 = .ok (.sendOnly true) := by decide
theorem test_decode_connect : decode 0b00000000000000000000000000000111 = .ok .connect := by decide
theorem test_decode_disconnect : decode 0b00000000000000000000000000001000 = .ok .disconnect := by decide

/-- ADV-3, HI-4: ARG and EOT are ignored where a command does not use them. -/
theorem test_decode_ignores_unused_bits :
    decode 0x00000303 = .ok .advance ∧ decode 0x00000301 = .ok .encode ∧ decode 0x00000102 = .ok (.consume false) := by
  decide

/-- HI-1 to HI-3: illegal words. -/
theorem test_decode_rejects :
    decode 0x00000009 = .error (.illegalOpcode 0x09) ∧ decode 0x00000000 = .error (.illegalOpcode 0x00) ∧
      decode 0x000000FF = .error (.illegalOpcode 0xFF) ∧ decode 0x00000401 = .error (.reservedBits 1) ∧
      decode 0x80000001 = .error (.reservedBits 0x200000) := by decide

theorem test_table_word : decodeTableWord 32 0x206 = some (.sendOnly true) ∧ decodeTableWord 32 0x9 = none := by decide

/-! ## Helpers -/

/-- The test configuration TC of 95_test_vectors.md. -/
def tc : Config.Params where
  cmdDbgMessage := 0xF001
  cmdIdRetry := 0xF002
  cmdDeviceStatus := 0xF003
  ticksPerUnit := 1000
  settleReset := 10
  readTimeoutReset := 5000
  hsTimeoutReset := 5000
  probeAdvances := true

/-- The state after reset with a command at a position. -/
def atLine (w : Word) (pos : Pos) : State := { State.reset with seq := .running w pos }

/-- The same on a live session. -/
def onSession (w : Word) (pos : Pos) : State := { atLine w pos with connected := true, hsState := .connected }

/-- The next state of an outcome, and `s` for a stop. -/
def nextOf (s : State) : Result → State
  | .next t => t
  | .fault _ => s
  | .refused _ => s

/-! ## The commands, one line each (95_test_vectors.md) -/

/-- ENC-1: the packet of command 0x0010, length 0; ENC-8: at flip 1 with the ack-request bit. -/
theorem test_encode_packet :
    encodeStream 0x0010 0 [] false false = some [[0x04, 0x00, 0x10, 0x00, 0x00, 0x00] ++ zeros 58] ∧
    encodeStream 0x0010 0 [] true true = some [[0xC4, 0x00, 0x10, 0x00, 0x00, 0x00] ++ zeros 58] := by decide

/-- W3, ENC-6, ENC-7: 988 bytes fit sixteen packets, 989 do not. -/
theorem test_encode_oversize :
    encodeStream 0x0010 989 [] false false = none ∧ packetCount 988 = 16 ∧ packetCount 989 = 17 := by decide

/-- CON-3 to CON-7, CON-9, CON-10: the checks on a first string. -/
theorem test_consume_packet_checks :
    rxPacket false Scratch.reset ([0x3F, 0x00, 0x30, 0x00, 0x00, 0x00] ++ zeros 58) = .failed .badPacket ∧
    rxPacket false Scratch.reset marker = .failed .badPacket ∧
    rxPacket false Scratch.reset [0x05] = .failed .badPacket ∧
    rxPacket false Scratch.reset [0x3E, 0x00, 0x30, 0x00] = .failed .badPacket ∧
    rxPacket false Scratch.reset [0x03, 0x00, 0x30, 0x00, 0x00] = .failed .badPacket ∧
    rxPacket true Scratch.reset ([0x04, 0x33, 0x10, 0x00, 0x00, 0x00] ++ zeros 58) = .failed .streamInconsistent ∧
    (feedStream false Scratch.reset [[0x04, 0x33, 0x10, 0x00, 0x00, 0x00] ++ zeros 58]).isSome = true := by decide

/-- W7, CON-14: the units of a debug message, the odd last byte dropped. -/
theorem test_consume_debug_units :
    debugUnits 4 [0x48, 0x00, 0x69, 0x00] = [0x0048, 0x0069] ∧ debugUnits 3 [0x41, 0x00, 0x42] = [0x0041] := by decide

/-- ADV-1. -/
theorem test_advance_toggles : (nextOf State.reset (execAdvance (atLine 0x3 .start))).flip = true := by decide

/-- RSF-2. -/
theorem test_resetFlip_sets :
    (nextOf State.reset (execResetFlip false { atLine 0x4 .start with flip := true })).flip = false := by decide

/-- REQ-4, REQ-5: a device-status reply is transient busy, but not to a device-status request. -/
theorem test_request_device_status :
    (nextOf State.reset (requestLine tc false false
      { onSession 0x5 (.reassembled .msg) with rxHdr := 0x0001F003, cmd0 := 0x0010 })).seq =
        .running 0x5 (.busy .deviceStatus) ∧
    (nextOf State.reset (requestLine tc false false
      { onSession 0x5 (.reassembled .msg) with rxHdr := 0x0001F003, cmd0 := 0xF003 })).resultWord = 0x00050100 := by
  decide

/-- REQ-13: the retry bound, with the OUTCOME of the last reply. -/
theorem test_request_retry_bound :
    (nextOf State.reset (requestLine tc false false
      { onSession 0x5 (.busy .deviceStatus) with retryLimit := 1, retryCount := 1 })).resultWord = 0x00050109 := by decide

/-- SND-3: a failed Send under EOT = 1 is fatal, with FLIP as it stood. -/
theorem test_sendOnly_fatal :
    let t := nextOf State.reset (execSendOnly true { onSession 0x206 (.sending 0) with sendAnswers := [.err] })
    t.resultWord = 0x00063011 ∧ t.statusWord = 0x012 := by decide

/-- SND-5: without a session. -/
theorem test_sendOnly_not_connected :
    (nextOf State.reset (execSendOnly false (atLine 0x6 .start))).resultWord = 0x0006000D := by decide

/-- HS-1 step 3: the probe packet, encoded with the ack-request bit although ACK_EN is 0. -/
theorem test_connect_probe :
    (encodeStream 0x0100 4 [0xDE, 0xAD, 0xBE, 0xEF] false true) =
      some [[0x48, 0x00, 0x00, 0x01, 0x04, 0x00, 0xDE, 0xAD, 0xBE, 0xEF] ++ zeros 54] := by decide

/-- HS-2: the tenth failed marker. -/
theorem test_connect_link_down :
    let t := nextOf State.reset (connectLine tc { atLine 0x7 .markerSending with hsAttempts := 10, sendAnswers := [.err] })
    t.hsState = .failed ∧ t.seq = .running 0x7 (.finishing .linkDown .none) := by decide

/-- HS-11 and 60_exceptions.md R301: a cancellation seen in an echo wait makes HS_STATE Failed while the command still
runs; its finish is the next line. -/
theorem test_cancel_cleans_up_before_its_finish :
    let s : State := { atLine 0x7 .auxCheck with hsState := .auxAckAwaited, cancelPend := true }
    let u := s.checkCancel .handshake .auxReceiving
    u.hsState = .failed ∧ u.busy = true ∧ u.done = false ∧ u.seq = .running 0x7 (.finishing .cancelled .none) := by decide

/-- DIS-3: without a session HS_STATE stays. -/
theorem test_disconnect_not_connected :
    let t := nextOf State.reset (execDisconnect { atLine 0x8 .start with hsState := .failed })
    t.resultWord = 0x0008000D ∧ t.hsState = .failed := by decide

/-- DIS-1: TDispose comes first. -/
theorem test_disconnect_disposes :
    (nextOf State.reset (execDisconnect (onSession 0x8 .start))).trace = [.tDispose] := by decide

/-! ## The host window (95_test_vectors.md §2.8) -/

/-- HI-10, HI-11: bus errors. -/
theorem test_forbidden_accesses :
    permitted .word 0x002 = false ∧ permitted .byte 0x004 = false ∧ permitted .half 0x3FE = false ∧
      permitted .half 0x401 = false ∧ permitted .byte 0x401 = true := by decide

/-- HI-3: bit 10 of the word is set. -/
theorem test_illegal_word_result :
    (nextOf State.reset (hostAccess tc (wr .cmd 0x00000401) State.reset)).resultWord = 0x0001000F := by decide

/-- HI-5: a command while BUSY. -/
theorem test_command_while_busy :
    let t := nextOf State.reset (hostAccess tc (wr .cmd 0x3) (atLine 0x2 .receiving))
    t.ovr = true ∧ t.seq = .running 0x2 .receiving := by decide

/-- HI-13: a 32-bit read of PKT. -/
theorem test_packet_read :
    State.hostRead tc .word 0x1000 { State.reset with mem := [(0x1000, 0x04), (0x1002, 0x10)] } = 0x00100004 := by decide

/-- HI-16, HI-17. -/
theorem test_reserved_and_id_reads :
    State.hostRead tc .word 0x044 State.reset = 0 ∧ State.hostRead tc .word 0x000 State.reset = 0x4D424631 := by decide

/-! ## Witnesses: for every obligation with hypotheses, a state and operands that meet them together -/

/-- A bus error's accesses and others, at the edges of the register area. -/
theorem witness_BusErrorExactlyOnForbiddenAccesses :
    (0x002#13).toNat % Width.bytes .word ≠ 0 ∧ ((0x3FF#13).toNat < 0x400 ∧ Width.byte ≠ Width.word) ∧
    ¬ ((0x3FC#13).toNat % Width.bytes .word ≠ 0 ∨ ((0x3FC#13).toNat < 0x400 ∧ Width.word ≠ Width.word)) ∧
    ¬ ((0x400#13).toNat % Width.bytes .byte ≠ 0 ∨ ((0x400#13).toNat < 0x400 ∧ Width.byte ≠ Width.word)) := by decide

theorem witness_DecodeIsTheMatchingTableRow :
    0x305#32 &&& 0xFFFFFCFF#32 = tableMatch (.request false false) ∧
    0x305#32 &&& 0xFFFFFCFF#32 = tableMatch (.request true true) ∧
    (∀ i : Instr, 0x405#32 &&& 0xFFFFFCFF#32 ≠ tableMatch i) ∧ ∀ i : Instr, 0x009#32 &&& 0xFFFFFCFF#32 ≠ tableMatch i := by
  refine ⟨by decide, by decide, ?_, ?_⟩ <;> intro i <;> cases i <;> (simp only [tableMatch]; decide)

theorem witness_DecodeAndEncodeAgree : decode 0x301 = .ok .encode ∧ decode 0x308 = .ok .disconnect := by decide

theorem witness_CommandWriteIsAccepted :
    State.reset.seq = .idle ∧ State.reset.fatal = false ∧ decode 0x206 = .ok (.sendOnly true) := ⟨rfl, rfl, by decide⟩

theorem witness_IllegalWordEndsAtOnce :
    State.reset.seq = .idle ∧ State.reset.fatal = false ∧ State.reset.cancelPend = false ∧
    (0x00000000#32).extractLsb' 0 8 = 0x00#8 ∧ 0x09#8 ≤ (0x00000009#32).extractLsb' 0 8 ∧
    0x09#8 ≤ (0x000000FF#32).extractLsb' 0 8 ∧ (0x00000401#32).extractLsb' 10 22 ≠ 0#22 :=
  ⟨rfl, rfl, rfl, by decide, by decide, by decide, by decide⟩

theorem witness_CommandsAndConfigurationAreLockedWhileBusyOrFatal :
    (atLine 0x2 .receiving).seq ≠ .idle ∧ ({ State.reset with fatal := true } : State).fatal = true ∧
    permitted .word 0x034 = true ∧ (0x034 : Offset) ∈ [0x004, 0x00C, 0x018, 0x028, 0x02C, 0x030, 0x034] ∧
    permitted .byte 0x400 = true ∧ permitted .byte 0x7DB = true ∧
    (0x400 ≤ (0x400#13).toNat ∧ (0x400#13).toNat ≤ 0x7DB) ∧ 0x400 ≤ (0x7DB#13).toNat ∧ (0x7DB#13).toNat ≤ 0x7DB :=
  ⟨by simp [atLine], rfl, by decide, by decide, by decide, by decide, by decide, by decide, by decide⟩

theorem witness_ConfigurationWriteTakesEffect : State.reset.seq = .idle ∧ State.reset.fatal = false := ⟨rfl, rfl⟩

theorem witness_HostReadsHaveNoSideEffect :
    ∃ t, hostAccess tc (.read .word 0x008) State.reset = .next t := ⟨_, rfl⟩

theorem witness_ReservedAndReadOnlyOffsetsIgnoreWrites :
    (permitted .word 0x044 = true ∧ 0x044 ≤ (0x044#13).toNat ∧ (0x044#13).toNat < 0x400) ∧
    (permitted .word 0x3FC = true ∧ 0x044 ≤ (0x3FC#13).toNat ∧ (0x3FC#13).toNat < 0x400) ∧
    (permitted .word 0x7DC = true ∧ 0x7DC ≤ (0x7DC#13).toNat ∧ (0x7DC#13).toNat < 0x800) ∧
    (permitted .byte 0x7FF = true ∧ 0x7DC ≤ (0x7FF#13).toNat ∧ (0x7FF#13).toNat < 0x800) ∧
    (permitted .word 0xBDC = true ∧ 0xBDC ≤ (0xBDC#13).toNat ∧ (0xBDC#13).toNat < 0x1000) ∧
    (permitted .byte 0xFFF = true ∧ 0xBDC ≤ (0xFFF#13).toNat ∧ (0xFFF#13).toNat < 0x1000) ∧
    (permitted .word 0x1440 = true ∧ 0x1440 ≤ (0x1440#13).toNat) ∧
    (permitted .byte 0x1FFF = true ∧ 0x1440 ≤ (0x1FFF#13).toNat) ∧
    (permitted .word 0x040 = true ∧ (0x040 : Offset) ∈ [0x000, 0x010, 0x01C, 0x020, 0x024, 0x038, 0x03C, 0x040]) ∧
    (permitted .word 0x800 = true ∧ 0x800 ≤ (0x800#13).toNat ∧ (0x800#13).toNat ≤ 0xBDB) ∧
    (permitted .byte 0xBDB = true ∧ 0x800 ≤ (0xBDB#13).toNat ∧ (0xBDB#13).toNat ≤ 0xBDB) ∧
    (permitted .half 0x1000 = true ∧ 0x1000 ≤ (0x1000#13).toNat ∧ (0x1000#13).toNat ≤ 0x143F) ∧
    (permitted .byte 0x143F = true ∧ 0x1000 ≤ (0x143F#13).toNat ∧ (0x143F#13).toNat ≤ 0x143F) := by decide

theorem witness_TransmitBufferReadsBackWhatIsWritten :
    State.reset.seq = .idle ∧ State.reset.fatal = false ∧
    (permitted .word 0x7D8 = true ∧ 0x400 ≤ (0x7D8#13).toNat ∧ (0x7D8#13).toNat ≤ 0x7DB) ∧
    (permitted .half 0x400 = true ∧ 0x400 ≤ (0x400#13).toNat ∧ (0x400#13).toNat ≤ 0x7DB) ∧
    (permitted .byte 0x7DB = true ∧ 0x400 ≤ (0x7DB#13).toNat ∧ (0x7DB#13).toNat ≤ 0x7DB) :=
  ⟨rfl, rfl, by decide, by decide, by decide⟩

theorem witness_BufferReadsAreLittleEndian :
    (inBuffer (0x143C#13).toNat = true ∧ permitted .word 0x143C = true) ∧
    (inBuffer (0xBDA#13).toNat = true ∧ permitted .half 0xBDA = true) ∧
    (inBuffer (0x7DB#13).toNat = true ∧ permitted .byte 0x7DB = true) := by decide

theorem witness_AbortSetsCancelPendOnlyWhileBusy :
    (atLine 0x7 .auxReceiving).seq ≠ .idle ∧ (0x1#32).getLsbD 0 = true ∧ State.reset.seq = .idle ∧
      (0xFFFFFFFE#32).getLsbD 0 = false := ⟨by simp [atLine], by decide, rfl, by decide⟩

theorem witness_InterruptFollowsCompletion : State.reset.fatal = false ∧ State.reset.seq = .idle := ⟨rfl, rfl⟩

theorem witness_ResetLeavesTheResetTable :
    (let s : State := { State.reset with turns := [.reset] }; s.nextTurn = .reset ∧ s.pendingCall = none) ∧
    (let s : State := { atLine 0x7 .markerSending with turns := [.reset] }
     s.nextTurn = .reset ∧ s.pendingCall = some (.send marker)) ∧
    (let s : State := { onSession 0x2 .receiving with turns := [.reset] }
     s.nextTurn = .reset ∧ s.pendingCall = some (.recv s.readTimeout)) :=
  ⟨⟨rfl, rfl⟩, ⟨rfl, rfl⟩, ⟨rfl, rfl⟩⟩

theorem witness_StepRunsTheDecodedCommand :
    (let s : State := { atLine 0x3 .start with turns := [.sequencer] }
     s.nextTurn = .sequencer ∧ s.seq = .running 0x3 .start ∧ decode 0x3 = .ok .advance) ∧
    (let s : State := { State.reset with turns := [.sequencer] }; s.nextTurn = .sequencer ∧ s.seq = .idle) ∧
    (let s : State := { State.reset with turns := [.host (rd .id)] }; s.nextTurn = .host (rd .id)) ∧
    (let s : State := { atLine 0x7 .markerSending with turns := [.reset] }; s.nextTurn = .reset) :=
  ⟨⟨rfl, rfl, by decide⟩, ⟨rfl, rfl⟩, rfl, rfl⟩

/-- The lengths at which the packet count changes. -/
theorem witness_PacketCountAndOversizeByLength :
    ((58 : Nat) ≤ 58) ∧ (59 ≤ 59 ∧ 59 ≤ 120) ∧ (59 ≤ 120 ∧ 120 ≤ 120) ∧
    (1 ≤ 1 ∧ 1 ≤ 15 ∧ 62 * 1 - 3 ≤ 59 ∧ 59 ≤ 62 * 1 + 58) ∧ (1 ≤ 15 ∧ 15 ≤ 15 ∧ 62 * 15 - 3 ≤ 988 ∧ 988 ≤ 62 * 15 + 58) ∧
    (927 ≤ 927 ∧ 927 ≤ 988) ∧ (927 ≤ 988 ∧ 988 ≤ 988) ∧ (989 ≤ 989) := by decide

theorem witness_StreamPacketsAreWellFormed :
    ∃ ps, encodeStream 0x0010 59 (List.replicate 59 0xAA) true false = some ps ∧
      (59#16).toNat ≤ (List.replicate 59 0xAA#8).length ∧ (∃ q, ps[0]? = some q) ∧ ∃ q, ps[1]? = some q :=
  ⟨_, encodeStream_of_le _ _ _ _ (by decide), by decide, ⟨_, rfl⟩, ⟨_, rfl⟩⟩

theorem witness_MarkerIsNoCodecPacket :
    ∃ ps, encodeStream 0xFFFF 0 [] true true = some ps ∧ ∃ q, q ∈ ps :=
  ⟨_, encodeStream_of_le _ _ _ _ (by decide), _, List.mem_cons_self⟩

theorem witness_MarkerIsNoCodecPacket_sixteenth :
    ∃ ps, encodeStream 0xFFFF 988 (List.replicate 988 0) true true = some ps ∧
      988 ≤ (List.replicate 988 (0 : Byte)).length :=
  ⟨_, encodeStream_of_le _ _ _ _ (by decide), Nat.le_of_eq List.length_replicate.symm⟩

theorem witness_EncodeStoresTheStream :
    let s : State := { atLine 0x1 .start with txHdr := 0x03DC0010 }
    s.seq = .running 0x1 .start ∧ s.txLength.toNat ≤ 988 := ⟨rfl, by decide⟩

theorem witness_EncodeRefusesAnOversizeMessage :
    let s : State := { atLine 0x1 .start with txHdr := 0x03DD0010 }
    s.seq = .running 0x1 .start ∧ 988 < s.txLength.toNat := ⟨rfl, by decide⟩

/-- A command that runs Reassemble, for the statements that hold in CONSUME and in REQUEST. -/
theorem witness_reassembling :
    ((∃ eot, Instr.consume true = .consume eot) ∨ ∃ arg eot, Instr.consume true = .request arg eot) ∧
    ((∃ eot, Instr.request true false = .consume eot) ∨ ∃ arg eot, Instr.request true false = .request arg eot) :=
  ⟨.inl ⟨_, rfl⟩, .inr ⟨_, _, rfl⟩⟩

/-- The state of a Recv in Reassemble that answers `a` to the scratch `sc`. -/
def answering (strict : Bool) (sc : Scratch) (a : RecvAnswer) : State :=
  { onSession 0x2 .receiving with strict := strict, scratch := sc, recvAnswers := [a] }

/-- The scratch after `k` packets of a longer stream. -/
def midStream (k : Nat) : Scratch := { Scratch.reset with first := false, k := k, prevIdx := 1, tot0 := 3 }

/-- Each of the checks at its edge: a string of one byte, PLEN 63, a string one byte short of its PLEN, a first string of
five bytes; a seventeenth string; under STRICT a first index of 1, an index that skips, and a total that changes. -/
theorem witness_PacketCheckOrder :
    (∃ eot, Instr.consume true = .consume eot) ∧
    (∀ strict sc a, (answering strict sc a).seq = .running 0x2 .receiving) ∧
    (answering false Scratch.reset (.pkt [0x05])).recvAnswer = .pkt [0x05] ∧ ([0x05] : Bytes).length < 2 ∧
    62 < plenOf 0x3F ∧ ([0x05, 0x00, 0x30, 0x00, 0x00, 0x00] : Bytes).length < 2 + plenOf 0x05 ∧
    (Scratch.reset.first = true ∧ ([0x03, 0x00, 0x30, 0x00, 0x00] : Bytes).length < 6) ∧
    (let b : Bytes := [0x01, 0x23, 0xAA]
     (answering false (midStream 16) (.pkt b)).recvAnswer = .pkt b ∧
       ¬ (b.length < 2 ∨ 62 < plenOf 0x01 ∨ b.length < 2 + plenOf 0x01 ∨
         ((midStream 16).first = true ∧ b.length < 6)) ∧ 16 < (midStream 16).k + 1) ∧
    (idxOf 0x13).toNat ≠ 0 ∧ ¬ 16 < (midStream 15).k + 1 ∧
    ((idxOf 0x33).toNat ≠ (midStream 15).prevIdx.toNat + 1 ∨ totOf 0x33 ≠ (midStream 15).tot0) ∧
    ((idxOf 0x24).toNat ≠ (midStream 15).prevIdx.toNat + 1 ∨ totOf 0x24 ≠ (midStream 15).tot0) :=
  ⟨⟨_, rfl⟩, fun _ _ _ => rfl, rfl, by decide, by decide, by decide, by decide, ⟨rfl, by decide, by decide⟩, by decide,
    by decide, by decide, by decide⟩

/-- The shortest first packet under STRICT = 1, a full continuation as the sixteenth packet, the expected continuation
under STRICT = 1, and one with PLEN 0. -/
theorem witness_AcceptedPacketIsAccumulated :
    (let b : Bytes := [0x04, 0x00, 0x10, 0x00, 0x00, 0x00]
     let s := answering true Scratch.reset (.pkt b)
     s.seq = .running 0x2 .receiving ∧ s.recvAnswer = .pkt b ∧ s.scratch.first = true ∧
       (idxOf (b.getD 1 0)).toNat = 0 ∧ 2 ≤ b.length ∧ plenOf (b.getD 0 0) ≤ 62 ∧
       2 + plenOf (b.getD 0 0) ≤ b.length ∧ s.scratch.k < 16 ∧ 6 ≤ b.length) ∧
    (let b : Bytes := 0x3E :: 0xFF :: zeros 62
     let s := answering false (midStream 15) (.pkt b)
     s.seq = .running 0x2 .receiving ∧ s.recvAnswer = .pkt b ∧ s.strict ≠ true ∧ 2 ≤ b.length ∧
       plenOf (b.getD 0 0) ≤ 62 ∧ 2 + plenOf (b.getD 0 0) ≤ b.length ∧ s.scratch.k < 16 ∧ s.scratch.first = false) ∧
    (let b : Bytes := [0x01, 0x23, 0xAA]
     let s := answering true (midStream 2) (.pkt b)
     s.seq = .running 0x2 .receiving ∧ s.recvAnswer = .pkt b ∧ s.scratch.first = false ∧
       (idxOf (b.getD 1 0)).toNat = s.scratch.prevIdx.toNat + 1 ∧ totOf (b.getD 1 0) = s.scratch.tot0 ∧ 2 ≤ b.length ∧
       plenOf (b.getD 0 0) ≤ 62 ∧ 2 + plenOf (b.getD 0 0) ≤ b.length ∧ s.scratch.k < 16) ∧
    (let b : Bytes := [0x00, 0x12]
     2 ≤ b.length ∧ plenOf (b.getD 0 0) ≤ 62 ∧ 2 + plenOf (b.getD 0 0) ≤ b.length) :=
  ⟨⟨rfl, rfl, rfl, by decide, by decide, by decide, by decide, by decide, by decide⟩,
    ⟨rfl, rfl, by decide, by decide, by decide, by decide, by decide, rfl⟩,
    ⟨rfl, rfl, rfl, by decide, by decide, by decide, by decide, by decide, by decide⟩, by decide⟩

/-- A complete stream in the scratch. -/
def complete (command length : Half) (acc : Bytes) (sum : Nat) : State :=
  { onSession 0x2 .validate with
    rxState := .complete
    scratch := { Scratch.reset with first := false, k := 1, command := command, length := length, acc := acc, sum := sum } }

/-- CON-24 (the length is wrong) and CON-8 (the sum is 3, less than a sub-header). -/
theorem witness_LengthMismatchFailsTheStream :
    (let s := complete 0x0030 2 [0xAA] 5
     s.seq = .running 0x2 .validate ∧ s.scratch.acc.length ≠ s.scratch.length.toNat) ∧
    (let s := complete 0x0030 0 [] 3
     s.seq = .running 0x2 .validate ∧ (s.scratch.acc.length : Int) ≠ (s.scratch.sum : Int) - 4) :=
  ⟨⟨rfl, by decide⟩, ⟨rfl, by decide⟩⟩

/-- The device-status code is neither of the two others. -/
theorem witness_MessageIsCommittedWhole :
    let s := complete Config.params.cmdDeviceStatus 1 [0x7F] 5
    s.seq = .running 0x2 .validate ∧ s.scratch.acc.length = s.scratch.length.toNat ∧
      s.scratch.acc.length + 4 = s.scratch.sum ∧ s.scratch.command ≠ Config.params.cmdDbgMessage ∧
      s.scratch.command ≠ Config.params.cmdIdRetry :=
  ⟨rfl, rfl, rfl, fun h => Config.params.codes_distinct.2.1 h.symm, fun h => Config.params.codes_distinct.2.2 h.symm⟩

theorem witness_DebugMessageIsEmittedAndCounted :
    (let s := complete Config.params.cmdDbgMessage 3 [0x41, 0x00, 0x42] 7
     s.seq = .running 0x2 .validate ∧ s.scratch.acc.length = s.scratch.length.toNat ∧
       s.scratch.acc.length + 4 = s.scratch.sum ∧ s.scratch.command = Config.params.cmdDbgMessage) ∧
    (onSession 0x2 .debugCount).seq = .running 0x2 .debugCount := ⟨⟨rfl, rfl, rfl, rfl⟩, rfl⟩

theorem witness_RetryRequestedCommitsNothing :
    let s := complete Config.params.cmdIdRetry 0 [] 4
    s.seq = .running 0x2 .validate ∧ s.scratch.acc.length = s.scratch.length.toNat ∧
      s.scratch.acc.length + 4 = s.scratch.sum ∧ s.scratch.command = Config.params.cmdIdRetry := ⟨rfl, rfl, rfl, rfl⟩

theorem witness_FailedReceiveFollowsThePolicy :
    (Instr.consume true = .consume true ∨ ∃ arg, Instr.consume true = .request arg true) ∧
    (Instr.request true false = .consume false ∨ ∃ arg, Instr.request true false = .request arg false) ∧
    (let s := answering false Scratch.reset .timeout; s.seq = .running 0x2 .receiving ∧ s.recvAnswer = .timeout) ∧
    (let s := answering false Scratch.reset .ioerr; s.seq = .running 0x2 .receiving ∧ s.recvAnswer = .ioerr) :=
  ⟨.inl rfl, .inr ⟨_, rfl⟩, ⟨rfl, rfl⟩, ⟨rfl, rfl⟩⟩

theorem witness_ConsumeEndsByItsReassembly :
    ((atLine 0x2 .start).seq = .running 0x2 .start ∧ (atLine 0x2 .start).connected = false) ∧
    ((onSession 0x2 .start).seq = .running 0x2 .start ∧ (onSession 0x2 .start).connected = true) ∧
    ∀ o, (onSession 0x2 (.reassembled o)).seq = .running 0x2 (.reassembled o) := ⟨⟨rfl, rfl⟩, ⟨rfl, rfl⟩, fun _ => rfl⟩

/-- The longest message, of sixteen packets, whose command is the device-status code. -/
theorem witness_ConsumeRecoversTheEncodedMessage :
    ∃ ps : List Bytes,
      let s : State := { onSession 0x2 .start with recvAnswers := ps.map RecvAnswer.pkt }
      decode 0x2 = .ok (.consume false) ∧ s.seq = .running 0x2 .start ∧ s.connected = true ∧ s.cancelPend = false ∧
      (988#16).toNat ≤ (List.replicate 988 0x55#8).length ∧
      encodeStream Config.params.cmdDeviceStatus 988 (List.replicate 988 0x55) false true = some ps ∧
      Config.params.cmdDeviceStatus ≠ Config.params.cmdDbgMessage ∧
      Config.params.cmdDeviceStatus ≠ Config.params.cmdIdRetry ∧
      s.recvAnswers = ps.map RecvAnswer.pkt ++ [] :=
  ⟨_, by decide, rfl, rfl, rfl, by rw [List.length_replicate]; decide, encodeStream_of_le _ _ _ _ (by decide),
    fun h => Config.params.codes_distinct.2.1 h.symm, fun h => Config.params.codes_distinct.2.2 h.symm,
    (List.append_nil _).symm⟩

theorem witness_FlipAckAndPaddingOfReceivedPacketsAreIgnored :
    plenOf 0x04 = plenOf 0xC4 ∧
    (let b : Bytes := [0x00, 0x00, 0x30, 0x00, 0x00, 0x00]; 6 ≤ b.length ∧ b.length = 2 + max 4 (plenOf (b.getD 0 0))) ∧
    (let b : Bytes := 0x3E :: zeros 63; 6 ≤ b.length ∧ b.length = 2 + max 4 (plenOf (b.getD 0 0))) ∧
    (midStream 2).first = false ∧ (let b : Bytes := [0x00, 0x12]; b.length = 2 + plenOf (b.getD 0 0)) ∧
    (let b : Bytes := 0x3E :: 0x12 :: zeros 62; b.length = 2 + plenOf (b.getD 0 0)) := by decide

theorem witness_AdvanceTogglesTheFlipBit : (atLine 0x3 .start).seq = .running 0x3 .start ∧ decode 0x3 = .ok .advance :=
  ⟨rfl, by decide⟩

theorem witness_ResetFlipSetsTheFlipBit :
    (atLine 0x104 .start).seq = .running 0x104 .start ∧ decode 0x104 = .ok (.resetFlip true) := ⟨rfl, by decide⟩

theorem witness_SendingCommandsEncodeThenAdvance :
    (∃ arg eot, Instr.request true false = .request arg eot) ∧ decode 0x105 = .ok (.request true false) ∧
    (∃ eot, Instr.sendOnly true = .sendOnly eot) ∧ decode 0x206 = .ok (.sendOnly true) ∧
    ((atLine 0x105 .start).seq = .running 0x105 .start ∧ (atLine 0x105 .start).connected = false) ∧
    (let s : State := { onSession 0x206 .start with txHdr := 0x03DD0010 }
     s.seq = .running 0x206 .start ∧ s.connected = true ∧ 988 < s.txLength.toNat) ∧
    (let s : State := { onSession 0x206 .start with txHdr := 0x03DC0010 }
     s.seq = .running 0x206 .start ∧ s.connected = true ∧ s.txLength.toNat ≤ 988) :=
  ⟨⟨_, _, rfl⟩, by decide, ⟨_, rfl⟩, by decide, ⟨rfl, rfl⟩, ⟨rfl, rfl, by decide⟩, ⟨rfl, rfl, by decide⟩⟩

theorem witness_SendAnswerDecidesTheTransmission :
    (Instr.sendOnly true = .sendOnly true ∨ ∃ arg, Instr.sendOnly true = .request arg true) ∧
    (Instr.request true false = .sendOnly false ∨ ∃ arg, Instr.request true false = .request arg false) ∧
    (let s : State := { onSession 0x6 (.sending 15) with sendAnswers := [.ok] }
     s.seq = .running 0x6 (.sending 15) ∧ s.sendAnswer = .ok) ∧
    (let s : State := { onSession 0x6 (.sending 0) with sendAnswers := [.err] }
     s.seq = .running 0x6 (.sending 0) ∧ s.sendAnswer = .err) :=
  ⟨.inl rfl, .inr ⟨_, rfl⟩, ⟨rfl, rfl⟩, ⟨rfl, rfl⟩⟩

theorem witness_SendOnlySendsTheWholeStream :
    let s : State := { onSession 0x6 .start with txHdr := 0x03DC0010, sendAnswers := List.replicate 16 .ok }
    decode 0x6 = .ok (.sendOnly false) ∧ s.seq = .running 0x6 .start ∧ s.connected = true ∧ s.cancelPend = false ∧
      s.txLength.toNat ≤ 988 ∧ s.sendAnswers = List.replicate (packetCount s.txLength.toNat) .ok ++ [] :=
  ⟨by decide, rfl, rfl, rfl, by decide, by decide⟩

theorem witness_AcknowledgmentIsReceivedAndDiscarded :
    (onSession 0x5 .transmitted).seq = .running 0x5 .transmitted ∧
    ((onSession 0x5 .ackCheck).seq = .running 0x5 .ackCheck ∧ (onSession 0x5 .ackCheck).cancelPend = false) ∧
    (let s : State := { onSession 0x5 .ackReceiving with recvAnswers := [.pkt []] }
     s.seq = .running 0x5 .ackReceiving ∧ s.recvAnswer = .pkt []) ∧
    (let s : State := { onSession 0x5 .ackReceiving with recvAnswers := [.timeout] }
     s.seq = .running 0x5 .ackReceiving ∧ s.recvAnswer = .timeout) ∧
    (let s : State := { onSession 0x5 .ackReceiving with recvAnswers := [.ioerr] }
     s.seq = .running 0x5 .ackReceiving ∧ s.recvAnswer = .ioerr) := ⟨rfl, ⟨rfl, rfl⟩, ⟨rfl, rfl⟩, ⟨rfl, rfl⟩, ⟨rfl, rfl⟩⟩

/-- A stray device-status message, and one that answers a device-status request. -/
theorem witness_ReplyDecision :
    (∀ o, (onSession 0x5 (.reassembled o)).seq = .running 0x5 (.reassembled o)) ∧
    (let s : State := { onSession 0x5 (.reassembled .msg) with
       rxHdr := 1#16 ++ Config.params.cmdDeviceStatus, cmd0 := Config.params.cmdIdRetry }
     s.seq = .running 0x5 (.reassembled .msg) ∧ s.rxCommand = Config.params.cmdDeviceStatus ∧
       s.cmd0 ≠ Config.params.cmdDeviceStatus) ∧
    (let s : State := { onSession 0x5 (.reassembled .msg) with
       rxHdr := 1#16 ++ Config.params.cmdDeviceStatus, cmd0 := Config.params.cmdDeviceStatus }
     s.seq = .running 0x5 (.reassembled .msg) ∧
       ¬ (s.rxCommand = Config.params.cmdDeviceStatus ∧ s.cmd0 ≠ Config.params.cmdDeviceStatus)) :=
  ⟨fun _ => rfl, ⟨rfl, extractLsb'_append_right _ _, Config.params.codes_distinct.2.2⟩, ⟨rfl, fun h => h.2 rfl⟩⟩

theorem witness_RetryBoundAndCount :
    (let s : State := { onSession 0x105 (.busy .retry) with retryLimit := 2, retryCount := 2 }
     s.seq = .running 0x105 (.busy .retry) ∧ s.retryLimit ≠ 0 ∧ s.retryLimit.toNat ≤ s.retryCount.toNat) ∧
    (let s : State := { onSession 0x105 (.busy .deviceStatus) with retryLimit := 0, retryCount := 0xFFFFFFFF }
     s.seq = .running 0x105 (.busy .deviceStatus) ∧ s.retryLimit = 0) ∧
    (let s : State := { onSession 0x105 (.busy .retry) with retryLimit := 2, retryCount := 1 }
     s.seq = .running 0x105 (.busy .retry) ∧ s.retryCount.toNat < s.retryLimit.toNat) ∧
    (onSession 0x105 .backingOff).seq = .running 0x105 .backingOff ∧
    (let s : State := { onSession 0x105 .countRetry with retryCount := 0xFFFFFFFF }
     s.seq = .running 0x105 .countRetry) :=
  ⟨⟨rfl, by decide, by decide⟩, ⟨rfl, rfl⟩, ⟨rfl, by decide⟩, rfl, rfl⟩

/-- A message of length 0 with any command, as one string of six bytes. -/
def emptyMessage (c : Half) : Bytes := [0x04, 0x00, c.extractLsb' 0 8, c.extractLsb' 8 8, 0x00, 0x00]

theorem isStream_emptyMessage (strict : Bool) (c : Half) : IsStream strict [emptyMessage c] c [] := by
  refine ⟨by intro b hb; rw [List.mem_singleton.1 hb]; exact (by decide : 6 ≤ 64),
    ⟨[], false, 4, 1, 0, 0, c.extractLsb' 8 8 ++ c.extractLsb' 0 8, 0⟩, ?_, rfl, append_extractLsb' c, rfl⟩
  have hp : plenOf 4#8 = 4 := by decide
  have hi : idxOf 0#8 = 0#4 := by decide
  have ht : totOf 0#8 = 0#4 := by decide
  cases strict <;>
    simp [feedStream, rxPacket, Scratch.takeFirst, Scratch.reset, Scratch.inconsistent, emptyMessage, leHalf, hp, hi, ht,
      Config.payloadMax, Config.pktMax, Config.subHdr]

/-- One retry-requested reply, at the retry limit, then the answer to a device-status request. -/
theorem witness_RequestRetriesUntilTheReply :
    let busy := [[emptyMessage Config.params.cmdIdRetry]]
    let reply := [emptyMessage Config.params.cmdDeviceStatus]
    let s : State := { onSession 0x105 .start with
      txHdr := 0#16 ++ Config.params.cmdDeviceStatus, retryLimit := 1, sendAnswers := [.ok, .ok],
      recvAnswers := (busy.flatten ++ reply).map RecvAnswer.pkt }
    decode 0x105 = .ok (.request true false) ∧ s.seq = .running 0x105 .start ∧ s.connected = true ∧
    s.cancelPend = false ∧ s.ackEn = false ∧ s.txLength.toNat ≤ 988 ∧
    (s.retryLimit = 0 ∨ busy.length ≤ s.retryLimit.toNat) ∧ busy.length ≤ 0xFFFFFFFF ∧
    (∀ bs ∈ busy, ∃ d, IsStream s.strict bs Config.params.cmdIdRetry d) ∧
    IsStream s.strict reply Config.params.cmdDeviceStatus [] ∧
    Config.params.cmdDeviceStatus ≠ Config.params.cmdDbgMessage ∧
    Config.params.cmdDeviceStatus ≠ Config.params.cmdIdRetry ∧
    (Config.params.cmdDeviceStatus = Config.params.cmdDeviceStatus → s.txCommand = Config.params.cmdDeviceStatus) ∧
    s.sendAnswers = List.replicate ((busy.length + 1) * packetCount s.txLength.toNat) .ok ++ [] ∧
    s.recvAnswers = (busy.flatten ++ reply).map RecvAnswer.pkt ++ [] := by
  have hl : (0#16 ++ Config.params.cmdDeviceStatus).extractLsb' 16 16 = 0#16 := extractLsb'_append_left _ _
  refine ⟨by decide, rfl, rfl, rfl, rfl, ?_, .inr (by decide), by decide, ?_, isStream_emptyMessage _ _,
    fun h => Config.params.codes_distinct.2.1 h.symm, fun h => Config.params.codes_distinct.2.2 h.symm,
    fun _ => extractLsb'_append_right _ _, ?_, rfl⟩
  · show ((0#16 ++ Config.params.cmdDeviceStatus).extractLsb' 16 16).toNat ≤ 988
    rw [hl]; decide
  · intro bs hb
    rw [List.mem_singleton.1 hb]
    exact ⟨[], isStream_emptyMessage _ _⟩
  · show [SendAnswer.ok, .ok] =
      List.replicate (2 * packetCount ((0#16 ++ Config.params.cmdDeviceStatus).extractLsb' 16 16).toNat) .ok ++ []
    rw [hl]; decide

theorem witness_ConnectChecksBeforeAnyTransportCall :
    (let s := onSession 0x7 .start; s.seq = .running 0x7 .start ∧ s.hsState = .connected) ∧
    (let s : State := { atLine 0x7 .start with txHdr := 0x003B0100 }
     s.seq = .running 0x7 .start ∧ s.hsState ≠ .connected ∧ 58 < s.txLength.toNat) ∧
    (let s : State := { atLine 0x7 .start with txHdr := 0x003A0100, hsState := .failed }
     s.seq = .running 0x7 .start ∧ s.hsState ≠ .connected ∧ s.txLength.toNat ≤ 58) :=
  ⟨⟨rfl, rfl⟩, ⟨rfl, by decide, by decide⟩, ⟨rfl, by decide, by decide⟩⟩

theorem witness_TenFailedMarkersAreLinkDown :
    let s : State := { atLine 0x7 .start with sendAnswers := List.replicate 10 .err }
    decode 0x7 = .ok .connect ∧ s.seq = .running 0x7 .start ∧ s.hsState ≠ .connected ∧ s.txLength.toNat ≤ 58 ∧
      s.cancelPend = false ∧ s.sendAnswers = List.replicate 10 .err ++ [] :=
  ⟨by decide, rfl, by decide, by decide, rfl, by decide⟩

/-- The probe of command 0, length 0: its packet with the ack-request bit. -/
def probe0 : Bytes := 0x44 :: 0x00 :: 0x00 :: 0x00 :: 0x00 :: 0x00 :: zeros 58

/-- Nine failed markers, then the two echoes, each after one string to drain. -/
theorem witness_ConnectReachesConnected :
    let main := clearAck (probe0.getD 0 0) :: probe0.tail
    let s : State := { atLine 0x7 .start with
      sendAnswers := List.replicate 9 .err ++ [.ok, .ok], recvAnswers := [.pkt main, .pkt probe0, .timeout, .pkt main] }
    decode 0x7 = .ok .connect ∧ s.seq = .running 0x7 .start ∧ s.hsState ≠ .connected ∧ s.txLength.toNat ≤ 58 ∧
    s.cancelPend = false ∧ 9 ≤ 9 ∧
    encodeStream s.txCommand s.txLength s.txPayload false true = some [probe0] ∧
    (∀ a ∈ [RecvAnswer.pkt main], RecvAnswer.clip a ≠ .ioerr ∧ RecvAnswer.clip a ≠ .pkt probe0) ∧
    (∀ a ∈ [RecvAnswer.timeout], RecvAnswer.clip a ≠ .ioerr ∧
      RecvAnswer.clip a ≠ .pkt (clearAck (probe0.getD 0 0) :: probe0.tail)) ∧
    s.sendAnswers = List.replicate 9 .err ++ .ok :: .ok :: [] ∧
    s.recvAnswers = [RecvAnswer.pkt main] ++ .pkt probe0 ::
      ([RecvAnswer.timeout] ++ .pkt (clearAck (probe0.getD 0 0) :: probe0.tail) :: []) :=
  ⟨by decide, rfl, by decide, by decide, rfl, by decide, by decide, by decide, by decide, rfl, rfl⟩

theorem witness_EchoMustEqualTheReference :
    (let s : State := { atLine 0x7 .auxReceiving with recvAnswers := [.pkt (zeros 64)] }
     s.seq = .running 0x7 (if true then .auxReceiving else .mainReceiving) ∧ s.recvAnswer = .pkt (zeros 64) ∧
       (zeros 64).length = 64 ∧ ∀ j, j < 64 → (zeros 64).getD j 0 = Memory.read s.mem (0x1400 + j)) ∧
    (let s : State := { atLine 0x7 .mainReceiving with recvAnswers := [.pkt (zeros 63)] }
     s.seq = .running 0x7 (if false then .auxReceiving else .mainReceiving) ∧ s.recvAnswer = .pkt (zeros 63) ∧
       (zeros 63).length ≠ 64) ∧
    (let s : State := { atLine 0x7 .mainReceiving with recvAnswers := [.pkt (zeros 63 ++ [1])] }
     s.recvAnswer = .pkt (zeros 63 ++ [1]) ∧ ∃ j, j < 64 ∧ (zeros 63 ++ [1]).getD j 0 ≠ Memory.read s.mem (0x1400 + j)) ∧
    (let s : State := { atLine 0x7 .auxReceiving with recvAnswers := [.timeout] }; s.recvAnswer = .timeout) ∧
    (let s : State := { atLine 0x7 .auxReceiving with recvAnswers := [.ioerr] }; s.recvAnswer = .ioerr) ∧
    (let s : State := { atLine 0x7 .probeSending with sendAnswers := [.ok] }
     s.seq = .running 0x7 .probeSending ∧ s.sendAnswer = .ok) ∧
    (let s : State := { atLine 0x7 .probeSending with sendAnswers := [.err] }
     s.seq = .running 0x7 .probeSending ∧ s.sendAnswer = .err) :=
  ⟨⟨rfl, rfl, by decide, by decide⟩, ⟨rfl, rfl, by decide⟩, ⟨rfl, 63, by decide, by decide⟩, rfl, rfl, ⟨rfl, rfl⟩,
    ⟨rfl, rfl⟩⟩

theorem witness_AuxiliaryEchoClearsTheAckFlagOfRef :
    (atLine 0x7 .clearAckFlag).seq = .running 0x7 .clearAckFlag := rfl

theorem witness_EchoWaitHasNoBound :
    (let s : State := { atLine 0x7 .auxCheck with recvAnswers := List.replicate 3 .timeout }
     decode 0x7 = .ok .connect ∧ s.seq = .running 0x7 .auxCheck ∧ s.cancelPend = false ∧
       s.recvAnswers = List.replicate 3 .timeout ++ []) ∧
    (atLine 0x7 .mainCheck).seq = .running 0x7 .mainCheck := ⟨⟨by decide, rfl, rfl, rfl⟩, rfl⟩

theorem witness_DisconnectReleasesTheSession :
    ((atLine 0x8 .start).seq = .running 0x8 .start ∧ (atLine 0x8 .start).connected = false) ∧
    (onSession 0x8 .start).seq = .running 0x8 .start ∧ (onSession 0x8 .start).connected = true ∧
    decode 0x8 = .ok .disconnect := ⟨⟨rfl, rfl⟩, rfl, rfl, by decide⟩

theorem witness_EveryLineAnswersAndEveryEndIsRecorded :
    (atLine 0x5 (.transmit 0)).seq = .running 0x5 (.transmit 0) ∧ ownPos (.request false false) (.transmit 0) = true ∧
    (atLine 0x7 .mainCheck).seq = .running 0x7 .mainCheck ∧ ownPos .connect .mainCheck = true :=
  ⟨rfl, by decide, rfl, by decide⟩

theorem witness_FatalEntryOnlyUnderExitOnTimeout :
    let s : State := { onSession 0x206 (.sending 0) with sendAnswers := [.err] }
    s.seq = .running 0x206 (.sending 0) ∧ s.fatal = false ∧
      ∃ t, exec (.sendOnly true) s = .next t ∧ t.fatal = true := ⟨rfl, rfl, _, rfl, rfl⟩

theorem witness_FatalStateIsSticky :
    let s : State := { State.reset with fatal := true, done := true, turns := [.host (wr .cmd 0x3)] }
    s.fatal = true ∧ s.seq = .idle ∧ s.nextTurn ≠ .reset ∧ ∃ t, step s = .next t := ⟨rfl, rfl, by decide, _, rfl⟩

/-- Every cancel point, and the pending finish of a cancellation, is a position `pos` with the first clause. -/
theorem witness_CancelPointsEndTheCommand :
    (∀ pos, let s : State := { onSession 0x5 pos with cancelPend := true }
      s.seq = .running 0x5 pos ∧ s.cancelPend = true) ∧
    (∃ arg eot, Instr.request false true = .request arg eot) ∧ (∃ eot, Instr.consume true = .consume eot) ∧
    (∃ eot, Instr.sendOnly true = .sendOnly eot) ∧
    (let s : State := { onSession 0x5 (.transmit 15) with pktCount := 16 }
     ∃ j, Pos.transmit 15 = .transmit j ∧ j < s.pktCount.toNat) ∧
    Pos.mainCheck ∈ [Pos.markerCheck, .markerBackoffCheck, .markerSettleCheck, .probeCheck, .probeSettleCheck, .auxCheck,
        .mainCheck] :=
  ⟨fun _ => ⟨rfl, rfl⟩, ⟨_, _, rfl⟩, ⟨_, rfl⟩, ⟨_, rfl⟩, ⟨15, rfl, by decide⟩, by decide⟩

/-- CONNECT at its last handshake line, with the next turn the sequencer's: the state meets the invariant. -/
def connecting : State := { atLine 0x7 .enterConnected with hsState := .mainAckAwaited, turns := [.sequencer] }

theorem connecting_inv : connecting.Inv where
  memory_wf := ⟨List.Pairwise.nil, fun _ h => absurd h List.not_mem_nil⟩
  memory_in := fun _ h => absurd h List.not_mem_nil
  connected_iff := by decide
  done_idle := by decide
  fatal_idle := by decide
  fatal_disconnected := by decide
  cause_iff := by decide
  cancel_busy := by decide
  pktCount_le := by decide
  attempts_le := by decide
  scratch_bounded := ⟨by decide, by decide, by decide, by decide⟩
  seq_legal := by
    intro w pos h
    cases h
    exact ⟨.connect, by decide, by decide, by decide, by decide, by decide, trivial⟩

/-- DISCONNECT at the line that drops the session: the state meets the invariant. -/
def leaving : State := { onSession 0x8 .leaveConnected with turns := [.sequencer] }

theorem leaving_inv : leaving.Inv where
  memory_wf := ⟨List.Pairwise.nil, fun _ h => absurd h List.not_mem_nil⟩
  memory_in := fun _ h => absurd h List.not_mem_nil
  connected_iff := by decide
  done_idle := by decide
  fatal_idle := by decide
  fatal_disconnected := by decide
  cause_iff := by decide
  cancel_busy := by decide
  pktCount_le := by decide
  attempts_le := by decide
  scratch_bounded := ⟨by decide, by decide, by decide, by decide⟩
  seq_legal := by
    intro w pos h
    cases h
    exact ⟨.disconnect, by decide, by decide, by decide, by decide, by decide, trivial⟩

theorem witness_EveryStepKeepsTheInvariant : connecting.Inv ∧ ∃ t, step connecting = .next t := ⟨connecting_inv, _, rfl⟩

theorem witness_OnlyABusErrorStopsTheMachine : leaving.Inv := leaving_inv

theorem witness_ConnectedChangesOnlyInItsRules :
    (connecting.Inv ∧ ∃ t, step connecting = .next t ∧ connecting.connected = false ∧ t.connected = true) ∧
    (leaving.Inv ∧ ∃ t, step leaving = .next t ∧ leaving.connected = true ∧ t.connected = false) :=
  ⟨⟨connecting_inv, _, rfl, rfl, rfl⟩, ⟨leaving_inv, _, rfl, rfl, rfl⟩⟩

theorem witness_CommandsKeepTheHostsConfiguration : ∃ t, exec .advance (atLine 0x3 .start) = .next t := ⟨_, rfl⟩

theorem witness_EachRegisterHasOnlyItsWriters :
    (∃ t, exec .connect (atLine 0x7 .markerCount) = .next t) ∧
    (∃ t, exec .disconnect (onSession 0x8 .start) = .next t ∧ t.fatal = false ∧ t.seq ≠ .idle) ∧
    (∃ t, exec .advance (atLine 0x3 .start) = .next t ∧ t.fatal = false) ∧
    ((∀ eot, Instr.connect ≠ .consume eot) ∧ ∀ arg eot, Instr.connect ≠ .request arg eot) ∧
    Instr.advance = .advance ∧ Instr.disconnect ≠ .connect ∧ (∀ arg eot, Instr.disconnect ≠ .request arg eot) ∧
    (∀ eot, Instr.disconnect ≠ .consume eot) ∧ ∀ eot, Instr.disconnect ≠ .sendOnly eot :=
  ⟨⟨_, rfl⟩, ⟨_, rfl, rfl, by decide⟩, ⟨_, rfl, rfl⟩, ⟨fun _ => Instr.noConfusion, fun _ _ => Instr.noConfusion⟩, rfl, by decide,
    fun _ _ => Instr.noConfusion, fun _ => Instr.noConfusion, fun _ => Instr.noConfusion⟩

theorem witness_AtMostOneEventAStep :
    (∃ t, exec .connect (atLine 0x7 .markerSending) = .next t) ∧
    (atLine 0x7 .markerSending).pendingCall = some (.send marker) ∧
    (∃ t, exec .connect (atLine 0x7 .auxReceiving) = .next t) ∧
    (atLine 0x7 .auxReceiving).pendingCall = some (.recv (atLine 0x7 .auxReceiving).hsTimeout) :=
  ⟨⟨_, rfl⟩, rfl, ⟨_, rfl⟩, rfl⟩

end Sys2Proof.Tests
end

/-! SUPPORT. A write to ABORT as one of two next states (10_state.md R31), and the obligation about it. -/

namespace Sys2Proof.Machine

/-- A 1 in bit 0 while a command runs: the one write to ABORT that does something. -/
theorem State.writeAbort_of_request {s : State} {v : Word} (hbusy : s.seq ≠ .idle) (hbit : v.getLsbD 0 = true) :
    s.writeAbort v = { s with cancelPend := true } := by
  have hb : s.busy = true := s.busy_iff.mpr hbusy
  simp [State.writeAbort, hb, hbit]

/-- Without both of R31's conditions CANCEL_PEND keeps its value, whatever it is. -/
theorem State.writeAbort_of_no_request {s : State} {v : Word} (h : (s.busy && v.getLsbD 0) = false) :
    s.writeAbort v = s := by
  unfold State.writeAbort
  rw [h, Bool.or_false]

/-- Settles O14: an access to ABORT is `writeAbort`, and each clause says whether R31's two conditions hold there. -/
theorem abortSetsCancelPendOnlyWhileBusy : Obligations.AbortSetsCancelPendOnlyWhileBusy := by
  intro p s v
  have access : hostAccess p (wr .abort v) s = .next (s.writeAbort v) := hostAccess_wr p .abort v s
  refine ⟨fun hbusy hbit => ?request, fun hidle => ?idle, fun hbit => ?bitClear, hostRead_reg p .abort s⟩
  case request => rw [access, State.writeAbort_of_request hbusy hbit]
  case idle =>
    have hb : s.busy = false := by simpa [hidle] using s.busy_iff
    rw [access, State.writeAbort_of_no_request (by rw [hb, Bool.false_and])]
  case bitClear => rw [access, State.writeAbort_of_no_request (by rw [hbit, Bool.and_false])]

end Sys2Proof.Machine

/-! SUPPORT. The accesses that have no effect of their own (20_memory.md R61, R64) and those the configuration lock refuses
(R66, 30_encoding.md R94), with the obligations about them. -/

namespace Sys2Proof.Machine

/-! ## Bus errors -/

/-- 20_memory.md R64: the accesses that are a bus error. -/
theorem permitted_eq_false_iff (width : Width) (off : Offset) :
    permitted width off = false ↔ off.toNat % Width.bytes width ≠ 0 ∨ (off.toNat < 0x400 ∧ width ≠ .word) := by
  rw [← Bool.not_eq_true, permitted_iff, not_and_or, not_or, Nat.not_le]

/-- Settles O8: R64's accesses are those not `permitted`, and `hostAccess` faults on those alone. -/
theorem busErrorExactlyOnForbiddenAccesses : Obligations.BusErrorExactlyOnForbiddenAccesses := by
  intro p s width off v
  refine ⟨fun hforbidden => ?fault, fun hallowed => ?answer⟩
  case fault =>
    have h := (permitted_eq_false_iff width off).mpr hforbidden
    exact ⟨hostAccess_read_of_not h, hostAccess_write_of_not h⟩
  case answer =>
    have h : permitted width off = true := by
      rw [← Bool.not_eq_false, permitted_eq_false_iff]
      exact hallowed
    exact ⟨⟨_, hostAccess_read_of_permitted h⟩, _, hostAccess_write_of_permitted h⟩

/-! ## Register writes by class of register -/

/-- The registers a host write does not change (20_memory.md R61). -/
def readOnlyRegs : List Reg := [.id, .result, .rxHdr, .pktInfo, .retryCount, .backoff, .dbgCount, .hsAttempts]

/-- The registers whose writes are refused under the lock (20_memory.md R66, 30_encoding.md R94). -/
def lockedRegs : List Reg := [.ctrl, .cmd, .txHdr, .retryLimit, .readTimeout, .hsTimeout, .settle]

theorem hostWrite_reg (width : Width) (r : Reg) (v : Word) (s : State) :
    s.hostWrite width (Reg.off r) v = s.writeReg r v := by cases r <;> rfl

theorem State.writeReg_of_readOnly {r : Reg} (h : r ∈ readOnlyRegs) (v : Word) (s : State) : s.writeReg r v = s := by
  cases r with
  | id | result | rxHdr | pktInfo | retryCount | backoff | dbgCount | hsAttempts => rfl
  | ctrl | status | cmd | abort | txHdr | retryLimit | readTimeout | hsTimeout | settle =>
    exact absurd h (by decide)

theorem State.writeReg_of_locked {s : State} {r : Reg} (hlocked : s.locked = true) (h : r ∈ lockedRegs) (v : Word) :
    s.writeReg r v = s.overrun := by
  cases r with
  | cmd => exact State.writeCmd_of_locked hlocked v
  | ctrl | txHdr | retryLimit | readTimeout | hsTimeout | settle =>
    unfold State.writeReg
    exact State.configure_of_locked hlocked _
  | id | status | result | abort | rxHdr | pktInfo | retryCount | backoff | dbgCount | hsAttempts =>
    exact absurd h (by decide)

/-! ## Offsets that ignore writes -/

/-- A reserved offset of the register area holds no register. -/
theorem hostWrite_of_reserved_register {width : Width} {off : Offset} {v : Word} {s : State}
    (hlow : 0x44 ≤ off.toNat) (hhigh : off.toNat < 0x400) : s.hostWrite width off v = s := by
  rw [hostWrite_of_lt hhigh, regAt_eq_none hlow]

theorem hostRead_of_reserved_register {p : Config.Params} {width : Width} {off : Offset} {s : State}
    (hlow : 0x44 ≤ off.toNat) (hhigh : off.toNat < 0x400) : s.hostRead p width off = 0 := by
  rw [hostRead_of_lt hhigh, regAt_eq_none hlow]

/-- Above the register area only TX_DATA, 0x400 to 0x7DB, takes a host write. -/
theorem hostWrite_of_above_txData {width : Width} {off : Offset} {v : Word} {s : State} (h : 0x7DC ≤ off.toNat) :
    s.hostWrite width off v = s := by
  have hout : ¬ inTx off.toNat = true := by rw [inTx_iff]; omega
  rw [hostWrite_of_le (by omega), if_neg hout]

/-! ## Reads of reserved offsets above the register area -/

theorem inBuffer_eq_false_iff (a : Nat) : inBuffer a = false ↔
    a < 0x400 ∨ (0x7DC ≤ a ∧ a < 0x800) ∨ (0xBDC ≤ a ∧ a < 0x1000) ∨ 0x1440 ≤ a := by
  rw [← Bool.not_eq_true, inBuffer_iff]
  omega

/-- The buffers begin and end at multiples of 4, so an aligned access lies in one as a whole or not at all. -/
theorem inBuffer_add_of_aligned {width : Width} {a i : Nat} (haligned : a % Width.bytes width = 0)
    (hi : i < Width.bytes width) : inBuffer (a + i) = inBuffer a := by
  rw [Bool.eq_iff_iff, inBuffer_iff, inBuffer_iff]
  cases width <;> simp only [Width.bytes] at haligned hi <;> omega

theorem leNat_eq_zero : ∀ {bs : Bytes}, (∀ b ∈ bs, b = 0) → leNat bs = 0
  | [], _ => rfl
  | b :: bs, h => by
    obtain ⟨hb, hbs⟩ := List.forall_mem_cons.mp h
    rw [leNat, hb, leNat_eq_zero hbs]
    rfl

/-- Every byte of an aligned access outside the buffers reads 0 (20_memory.md R61). -/
theorem hostRead_of_not_inBuffer {p : Config.Params} {width : Width} {off : Offset} {s : State}
    (hle : 0x400 ≤ off.toNat) (hout : inBuffer off.toNat = false) (haligned : off.toNat % Width.bytes width = 0) :
    s.hostRead p width off = 0 := by
  have hzero : ∀ b ∈ (List.range (Width.bytes width)).map (fun i => s.bufferByte (off.toNat + i)), b = 0 := by
    intro b hb
    obtain ⟨i, hi, rfl⟩ := List.mem_map.mp hb
    have hbyte : inBuffer (off.toNat + i) = false :=
      (inBuffer_add_of_aligned haligned (List.mem_range.mp hi)).trans hout
    rw [State.bufferByte, hbyte]
    rfl
  rw [hostRead_of_le hle, leNat_eq_zero hzero]
  rfl

/-! ## The obligations about ignored and refused writes -/

/-- Settles O10: with a permitted access in hand, by the kind of place its offset names: a reserved place of the register
area, one above it, a read-only register, or a read-only buffer. -/
theorem reservedAndReadOnlyOffsetsIgnoreWrites : Obligations.ReservedAndReadOnlyOffsetsIgnoreWrites := by
  intro p s width off v hpermitted
  obtain ⟨haligned, -⟩ := (permitted_iff width off).mp hpermitted
  rw [hostAccess_write_of_permitted hpermitted]
  refine ⟨?reserved, ?readOnly⟩
  case reserved =>
    rintro (⟨hlow, hhigh⟩ | habove)
    · exact ⟨hostRead_of_reserved_register hlow hhigh, congrArg _ (hostWrite_of_reserved_register hlow hhigh)⟩
    · have hout : inBuffer off.toNat = false := (inBuffer_eq_false_iff off.toNat).mpr (.inr habove)
      exact ⟨hostRead_of_not_inBuffer (by omega) hout haligned, congrArg _ (hostWrite_of_above_txData (by omega))⟩
  case readOnly =>
    rintro (hreg | hbuffer)
    · obtain ⟨r, hr, rfl⟩ : ∃ r ∈ readOnlyRegs, Reg.off r = off := List.mem_map.mp hreg
      rw [hostWrite_reg, State.writeReg_of_readOnly hr]
    · rw [hostWrite_of_above_txData (by omega)]

/-- Settles O6: a locked target is a register of `lockedRegs` or a byte of TX_DATA, and both writes end in `overrun`. -/
theorem commandsAndConfigurationAreLockedWhileBusyOrFatal :
    Obligations.CommandsAndConfigurationAreLockedWhileBusyOrFatal := by
  intro p s width off v hbusy hpermitted htarget
  have hlocked : s.locked = true := s.locked_iff.mpr hbusy
  rw [hostAccess_write_of_permitted hpermitted]
  show _ = Host.Outcome.next s.overrun
  rcases htarget with hreg | ⟨hlow, hhigh⟩
  · obtain ⟨r, hr, rfl⟩ : ∃ r ∈ lockedRegs, Reg.off r = off := List.mem_map.mp hreg
    rw [hostWrite_reg, State.writeReg_of_locked hlocked hr]
  · have htx : inTx off.toNat = true := (inTx_iff off.toNat).mpr ⟨hlow, by omega⟩
    rw [hostWrite_of_le hlow, if_pos htx, State.configure_of_locked hlocked]

end Sys2Proof.Machine

/-! SUPPORT. The command word as its fields (30_encoding.md R90), the words the decoder answers (R92, R96), and the
obligation about the opcode table. -/

namespace Sys2Proof.Machine

/-! ## A word and its fields -/

/-- R90: a command word is its reserved bits, its two operand bits and its opcode, laid end to end. -/
theorem word_eq_append (w : Word) : w = reservedField w ++ (w.extractLsb' 8 2 ++ opField w) := by
  have hlow : w.extractLsb' 8 2 ++ opField w = w.extractLsb' 0 10 :=
    BitVec.extractLsb'_append_extractLsb'_eq_extractLsb' rfl
  have hall : reservedField w ++ w.extractLsb' 0 10 = w.extractLsb' 0 32 :=
    BitVec.extractLsb'_append_extractLsb'_eq_extractLsb' rfl
  rw [hlow, hall, BitVec.extractLsb'_eq_self]

theorem reservedField_append (r : BitVec 22) (x : BitVec 10) : reservedField (r ++ x) = r :=
  BitVec.extractLsb'_append_eq_left

theorem opField_append (r : BitVec 22) (operands : BitVec 2) (op : Byte) : opField (r ++ (operands ++ op)) = op := by
  have hsplit : r ++ (operands ++ op) = (r ++ operands) ++ op := BitVec.append_assoc'
  unfold opField
  rw [hsplit, BitVec.extractLsb'_append_eq_right]

/-! ## The opcode table -/

/-- The mask of the opcode table clears ARG and EOT and keeps the other two fields. -/
theorem and_tableMask_eq_append (w : Word) : w &&& tableMask = reservedField w ++ (0#2 ++ opField w) := by
  have hmask : tableMask = BitVec.allOnes 22 ++ (0#2 ++ BitVec.allOnes 8) := by decide
  conv_lhs => rw [word_eq_append w, hmask]
  rw [BitVec.and_append, BitVec.and_append, BitVec.and_allOnes, BitVec.and_zero, BitVec.and_allOnes]

/-- A row's match has zeros everywhere but in the opcode. -/
theorem append_opField_tableMatch (i : Instr) : 0#22 ++ (0#2 ++ opField (tableMatch i)) = tableMatch i := by
  cases i <;> (rw [tableMatch]; decide)

/-- A word matches a row of R92 exactly when its reserved bits are 0 and its opcode is the row's. -/
theorem and_tableMask_eq_tableMatch_iff (w : Word) (i : Instr) :
    w &&& tableMask = tableMatch i ↔ reservedField w = 0 ∧ opField w = opField (tableMatch i) := by
  rw [and_tableMask_eq_append]
  constructor
  · intro h
    have hreserved : reservedField (tableMatch i) = 0 := by
      rw [← append_opField_tableMatch i, reservedField_append]; rfl
    constructor
    · rw [← hreserved, ← h, reservedField_append]
    · rw [← h, opField_append]
  · rintro ⟨hreserved, hop⟩
    rw [hreserved, hop]
    exact append_opField_tableMatch i

/-! ## The decoder's answers -/

/-- R91, R92: the opcode selects the row, and the row reads its operands from the word. -/
theorem decode_of_fields {w : Word} {i : Instr} (hreserved : reservedField w = 0)
    (hop : opField w = opField (tableMatch i)) : decode w = .ok (withOperands w i) := by
  unfold decode
  rw [if_pos hreserved, hop]
  cases i <;> rfl

/-- The converse: each opcode of `decode` is the opcode of the row it answers. -/
theorem fields_of_decode {w : Word} {i : Instr} (h : decode w = .ok i) :
    reservedField w = 0 ∧ opField w = opField (tableMatch i) := by
  unfold decode at h
  split at h
  case isFalse => cases h
  case isTrue hreserved =>
    refine ⟨hreserved, BitVec.eq_of_toNat_eq ?_⟩
    split at h <;> cases h <;> assumption

/-- R96, read from the table to the decoder. -/
theorem decode_of_match {w : Word} {i : Instr} (h : w &&& tableMask = tableMatch i) :
    decode w = .ok (withOperands w i) :=
  have ⟨hreserved, hop⟩ := (and_tableMask_eq_tableMatch_iff w i).mp h
  decode_of_fields hreserved hop

/-- R96, read from the decoder to the table. -/
theorem match_of_decode {w : Word} {i : Instr} (h : decode w = .ok i) : w &&& tableMask = tableMatch i :=
  (and_tableMask_eq_tableMatch_iff w i).mpr (fields_of_decode h)

/-- Settles O2: a matching row is what the decoder answers, whence rows that match one word agree, and an answer is a
matching row, whence a word without one is rejected. -/
theorem decodeIsTheMatchingTableRow : Obligations.DecodeIsTheMatchingTableRow := by
  refine ⟨fun w i => decode_of_match, fun w hnone => ?rejected, fun w i j hi hj => ?unique⟩
  case rejected =>
    cases hd : decode w with
    | error e => exact ⟨e, rfl⟩
    | ok i => exact absurd (match_of_decode hd) (hnone i)
  case unique => exact Except.ok.inj ((decode_of_match hi).symm.trans (decode_of_match hj))

end Sys2Proof.Machine

/-! SUPPORT. The two header bytes of a framed packet (30_encoding.md R101, R102), and the obligation about the marker
(R107, R108). -/

namespace Sys2Proof.Machine

@[simp] theorem getD_zero_framePacket (flip ack : Bool) (n i : Nat) (chunk : Bytes) :
    (framePacket flip ack n i chunk).getD 0 0 = controlByte flip ack chunk.length := rfl

@[simp] theorem getD_one_framePacket (flip ack : Bool) (n i : Nat) (chunk : Bytes) :
    (framePacket flip ack n i chunk).getD 1 0 = indexByte i (n - 1) := rfl

theorem plenOf_marker : plenOf (marker.getD 0 0) = 63 := by decide

theorem getElem?_encodeStream {cmd len : Half} {data : Bytes} {flip ack : Bool} {ps : List Bytes}
    (h : encodeStream cmd len data flip ack = some ps) {i : Nat} (hi : i < packetCount len.toNat) :
    ps[i]? = some (framePacket flip ack (packetCount len.toNat) i (chunkOf (serialize cmd len data) i)) := by
  obtain ⟨-, -, rfl⟩ := encodeStream_eq_some h
  rw [List.getElem?_map, List.getElem?_range hi, Option.map_some]

/-- R101: the codec never produces PLEN = 63, for a chunk has at most 62 bytes. -/
theorem plenOf_le_of_mem_encodeStream {cmd len : Half} {data : Bytes} {flip ack : Bool} {ps : List Bytes}
    (h : encodeStream cmd len data flip ack = some ps) {q : Bytes} (hq : q ∈ ps) : plenOf (q.getD 0 0) ≤ 62 := by
  obtain ⟨-, -, rfl⟩ := encodeStream_eq_some h
  obtain ⟨i, -, rfl⟩ := List.mem_map.mp hq
  have hchunk := length_chunkOf_le (serialize cmd len data) i
  rw [getD_zero_framePacket, plenOf_controlByte flip ack (by omega)]
  exact hchunk

/-- R108: the last packet of a message of 988 bytes has a full chunk, so its header is 0xFE, 0xFF where FLIP and ACK
are set. -/
theorem sixteenth_packet_header {cmd : Half} {data : Bytes} {ps : List Bytes}
    (h : encodeStream cmd 988 data true true = some ps) (hdata : 988 ≤ data.length) :
    ∃ q, ps[15]? = some q ∧ q.getD 0 0 = 0xFE ∧ q.getD 1 0 = 0xFF := by
  have hcount : packetCount (988 : Half).toNat = 16 := by decide
  have hserial : (serialize cmd 988 data).length = 992 := length_serialize hdata
  have hfull : (chunkOf (serialize cmd 988 data) 15).length = 62 := by rw [length_chunkOf, hserial]; rfl
  refine ⟨_, getElem?_encodeStream h (by rw [hcount]; decide), ?_, ?_⟩
  · rw [getD_zero_framePacket, hfull]
    decide
  · rw [getD_one_framePacket, hcount]
    decide

/-- Settles O21: the marker is told from every packet of a stream by its PLEN. -/
theorem markerIsNoCodecPacket : Obligations.MarkerIsNoCodecPacket := by
  refine ⟨by decide, by decide, plenOf_marker, by decide, by decide,
    fun cmd len data flip ack ps hps => ⟨?other, ?last⟩⟩
  case other =>
    intro q hq
    have hplen : plenOf (q.getD 0 0) ≠ 63 := by
      have := plenOf_le_of_mem_encodeStream hps hq
      omega
    refine ⟨hplen, ?_⟩
    rintro rfl
    exact hplen plenOf_marker
  case last =>
    rintro rfl rfl rfl hdata
    exact sixteenth_packet_header hps hdata

end Sys2Proof.Machine

/-! SUPPORT. How the packets of a stream cut up the serialized message (40_frame_codec.md R131 to R134): the bytes of a
framed packet, the chunks laid end to end, and the obligations about the packets of a stream. -/

namespace Sys2Proof.Machine

/-! ## The number of packets -/

theorem encodeStream_eq_none_iff (cmd len : Half) (data : Bytes) (flip ack : Bool) :
    encodeStream cmd len data flip ack = none ↔ 988 < len.toNat := by
  constructor
  · intro hnone
    by_contra hle
    have hsome := encodeStream_of_le cmd data flip ack (Nat.le_of_not_lt hle)
    rw [hnone] at hsome
    cases hsome
  · intro hlong
    cases h : encodeStream cmd len data flip ack with
    | none => rfl
    | some ps =>
      obtain ⟨-, hle, -⟩ := encodeStream_eq_some h
      omega

/-- Settles O19: the count is a quotient by 62, whose ranges are arithmetic, and it exceeds 16 exactly above 988. -/
theorem packetCountAndOversizeByLength : Obligations.PacketCountAndOversizeByLength := by
  refine ⟨fun len => ?counts, encodeStream_eq_none_iff⟩
  rw [packetCount_eq]
  refine ⟨?_, ?_, fun k => ?_, ?_, ?_, ?_⟩ <;> omega

/-! ## The bytes of a framed packet -/

theorem getD_append_zeros (bs : Bytes) (k j : Nat) : (bs ++ zeros k).getD j 0 = bs.getD j 0 := by
  by_cases h : j < bs.length
  · exact List.getD_append _ _ _ _ h
  · rw [List.getD_append_right _ _ _ _ (by omega), List.getD_eq_default bs _ (by omega)]
    exact List.getElem?_getD_replicate_default_eq _ k _

/-- Behind the two header bytes a packet reads as its chunk, and as 0x00 beyond it. -/
theorem getD_two_add_framePacket (flip ack : Bool) (n i : Nat) (chunk : Bytes) (j : Nat) :
    (framePacket flip ack n i chunk).getD (2 + j) 0 = chunk.getD j 0 := by
  rw [Nat.add_comm]
  exact getD_append_zeros chunk _ j

theorem leHalf_framePacket (flip ack : Bool) (n i : Nat) (chunk : Bytes) (j : Nat) :
    leHalf (framePacket flip ack n i chunk) (2 + j) = leHalf chunk j := by
  unfold leHalf
  rw [Nat.add_assoc, getD_two_add_framePacket, getD_two_add_framePacket]

/-- A chunk fits the six bits of PLEN. -/
theorem plenOf_framePacket_chunkOf (flip ack : Bool) (n i : Nat) (s : Bytes) (c : Nat) :
    plenOf ((framePacket flip ack n i (chunkOf s c)).getD 0 0) = (chunkOf s c).length := by
  have hchunk := length_chunkOf_le s c
  rw [getD_zero_framePacket, plenOf_controlByte flip ack (by omega)]

/-! ## The serialized message -/

/-- The serialized message is the sub-header and the data, cut to the message's own length. -/
theorem serialize_eq_take (cmd len : Half) (data : Bytes) :
    serialize cmd len data = (le16 cmd ++ le16 len ++ data).take (4 + len.toNat) := by
  have hheader : (le16 cmd ++ le16 len).length = 4 := rfl
  rw [← hheader, List.take_length_add_append]
  rfl

theorem getD_serialize (cmd len : Half) (data : Bytes) {j : Nat} (h : j < 4 + len.toNat) :
    (serialize cmd len data).getD j 0 = (le16 cmd ++ le16 len ++ data).getD j 0 := by
  rw [serialize_eq_take, List.getD_eq_getElem?_getD, List.getElem?_take_of_lt h, ← List.getD_eq_getElem?_getD]

theorem leHalf_serialize_zero (cmd len : Half) (data : Bytes) : leHalf (serialize cmd len data) 0 = cmd :=
  append_extractLsb' cmd

theorem leHalf_serialize_two (cmd len : Half) (data : Bytes) : leHalf (serialize cmd len data) 2 = len :=
  append_extractLsb' len

/-! ## Its chunks -/

theorem getD_chunkOf (s : Bytes) (i : Nat) {j : Nat} (h : j < 62) : (chunkOf s i).getD j 0 = s.getD (62 * i + j) 0 := by
  unfold chunkOf
  rw [List.getD_eq_getElem?_getD, List.getElem?_take_of_lt h, List.getElem?_drop, ← List.getD_eq_getElem?_getD]

/-- The sub-header lies in the first chunk. -/
theorem leHalf_chunkOf_zero (s : Bytes) {j : Nat} (h : j + 1 < 62) : leHalf (chunkOf s 0) j = leHalf s j := by
  unfold leHalf
  rw [getD_chunkOf s 0 h, getD_chunkOf s 0 (by omega), Nat.mul_zero, Nat.zero_add, Nat.zero_add]

theorem take_succ_chunkOf (s : Bytes) (m : Nat) : s.take (62 * (m + 1)) = s.take (62 * m) ++ chunkOf s m := by
  rw [Nat.mul_add, Nat.mul_one, List.take_add]
  rfl

/-- The chunks laid end to end are the string they were cut from. -/
theorem flatten_chunkOf (s : Bytes) (n : Nat) : ((List.range n).map (chunkOf s)).flatten = s.take (62 * n) := by
  induction n with
  | zero => rfl
  | succ n ih =>
    rw [take_succ_chunkOf, ← ih, List.range_succ, List.map_append, List.flatten_append, List.map_singleton,
      List.flatten_singleton]

/-! ## The packets of a stream -/

theorem eq_framePacket_of_getElem?_encodeStream {cmd len : Half} {data : Bytes} {flip ack : Bool} {ps : List Bytes}
    (h : encodeStream cmd len data flip ack = some ps) {i : Nat} {q : Bytes} (hq : ps[i]? = some q) :
    i < ps.length ∧ q = framePacket flip ack ps.length i (chunkOf (serialize cmd len data) i) := by
  obtain ⟨hi, -⟩ := List.getElem?_eq_some_iff.mp hq
  obtain ⟨hlen, -⟩ := encodeStream_length h
  have hframe := getElem?_encodeStream h (hlen ▸ hi)
  rw [hq] at hframe
  rw [hlen] at hi ⊢
  exact ⟨hi, Option.some.inj hframe⟩

/-- R134: the declared payload lengths add up to the length of the serialized message. -/
theorem sum_plenOf_encodeStream {cmd len : Half} {data : Bytes} {flip ack : Bool} {ps : List Bytes}
    (h : encodeStream cmd len data flip ack = some ps) (hdata : len.toNat ≤ data.length) :
    (ps.map fun q => plenOf (q.getD 0 0)).sum = 4 + len.toNat := by
  obtain ⟨-, -, rfl⟩ := encodeStream_eq_some h
  have hfits : 4 + len.toNat ≤ 62 * packetCount len.toNat := by rw [packetCount_eq]; omega
  have hplens : ((List.range (packetCount len.toNat)).map fun i =>
        framePacket flip ack (packetCount len.toNat) i (chunkOf (serialize cmd len data) i)).map
          (fun q => plenOf (q.getD 0 0)) =
      ((List.range (packetCount len.toNat)).map (chunkOf (serialize cmd len data))).map List.length := by
    rw [List.map_map, List.map_map]
    exact List.map_congr_left fun i _ => plenOf_framePacket_chunkOf ..
  rw [hplens, ← List.length_flatten, flatten_chunkOf, List.length_take, length_serialize hdata,
    Nat.min_eq_right hfits]

/-- Settles O20: every packet is a frame around a chunk, whose length `min 62 (4 + len − 62·i)` is its PLEN. -/
theorem streamPacketsAreWellFormed : Obligations.StreamPacketsAreWellFormed := by
  intro cmd len data flip ack ps hps hdata
  obtain ⟨hcount, -, h16, -⟩ := encodeStream_length hps
  refine ⟨hcount, fun i q hq => ?packet, sum_plenOf_encodeStream hps hdata⟩
  obtain ⟨hi, rfl⟩ := eq_framePacket_of_getElem?_encodeStream hps hq
  have hplen : (chunkOf (serialize cmd len data) i).length = min 62 (4 + len.toNat - 62 * i) := by
    rw [length_chunkOf, length_serialize hdata]
  have hquotient := hcount.trans (packetCount_eq len.toNat)
  rw [plenOf_framePacket_chunkOf, getD_zero_framePacket, getD_one_framePacket, idxOf_indexByte, totOf_indexByte,
    BitVec.toNat_ofNat, BitVec.toNat_ofNat]
  refine ⟨length_framePacket _ _ _ _ (length_chunkOf_le _ _), controlByte_flip .., controlByte_ack .., ?idx, ?tot,
    ?full, ?last, ?pos, length_chunkOf_le _ _, ?payload, ?padding, ?first⟩
  case idx | tot | full | last | pos => omega
  case payload =>
    intro j hj
    rw [getD_two_add_framePacket, getD_chunkOf _ i (by omega), getD_serialize _ _ _ (by omega)]
    rfl
  case padding =>
    intro j hj _
    obtain ⟨k, rfl⟩ := Nat.exists_eq_add_of_le (Nat.le_trans (Nat.le_add_right 2 _) hj)
    rw [getD_two_add_framePacket, List.getD_eq_default _ _ (by omega)]
  case first =>
    rintro rfl
    refine ⟨by omega, ?_, ?_⟩
    · rw [leHalf_framePacket _ _ _ _ _ 0, leHalf_chunkOf_zero _ (by omega), leHalf_serialize_zero]
    · rw [leHalf_framePacket _ _ _ _ _ 2, leHalf_chunkOf_zero _ (by omega), leHalf_serialize_two]

end Sys2Proof.Machine

/-! SUPPORT. The packets of a stream taken back (41_reassembly.md R151 to R169): what the scratch holds after each of
them, how CONSUME ends on a valid message, and the round trip of 40_frame_codec.md R135. -/

namespace Sys2Proof.Machine

/-! ## One packet of a stream -/

theorem take_drop_two_framePacket (flip ack : Bool) (n i : Nat) (chunk : Bytes) :
    ((framePacket flip ack n i chunk).drop 2).take chunk.length = chunk := List.take_left

/-- The data of a first packet is its chunk less the sub-header. -/
theorem take_drop_six_framePacket (flip ack : Bool) (n i : Nat) (chunk : Bytes) :
    ((framePacket flip ack n i chunk).drop 6).take (chunk.length - 4) = chunk.drop 4 := by
  conv_rhs => rw [← take_drop_two_framePacket flip ack n i chunk]
  rw [List.drop_take, List.drop_drop]

/-- 41_reassembly.md R161: IDX equals TOT in the last packet only, for the indices of a stream fit four bits. -/
theorem ofNat_index_beq_last {i n : Nat} (hi : i < n) (hn : n ≤ 16) :
    (BitVec.ofNat 4 i == BitVec.ofNat 4 (n - 1)) = decide (i + 1 = n) := by
  rw [Bool.eq_iff_iff, beq_iff_eq, decide_eq_true_iff, ← BitVec.toNat_inj, BitVec.toNat_ofNat, BitVec.toNat_ofNat]
  omega

/-- A packet of the codec passes every check but those on the stream before it. -/
theorem rxPacket_framePacket {strict : Bool} {sc : Scratch} {n i : Nat} {s : Bytes} (flip ack : Bool)
    (hi : i < n) (hn : n ≤ 16) (hk : sc.k < 16)
    (hconsistent : sc.inconsistent (BitVec.ofNat 4 i) (BitVec.ofNat 4 (n - 1)) = false) :
    let p := framePacket flip ack n i (chunkOf s i)
    rxPacket strict sc p = .accepted
      (if sc.first then sc.takeFirst p (chunkOf s i).length (BitVec.ofNat 4 i) (BitVec.ofNat 4 (n - 1))
        else sc.takeNext p (chunkOf s i).length (BitVec.ofNat 4 i))
      (decide (i + 1 = n)) := by
  intro p
  have hchunk := length_chunkOf_le s i
  have hlength : p.length = 64 := length_framePacket flip ack n i hchunk
  have hplen : plenOf (p.getD 0 0) = (chunkOf s i).length := plenOf_framePacket_chunkOf flip ack n i s i
  have hidx : idxOf (p.getD 1 0) = BitVec.ofNat 4 i := idxOf_indexByte i (n - 1)
  have htot : totOf (p.getD 1 0) = BitVec.ofNat 4 (n - 1) := totOf_indexByte i (n - 1)
  have hgood : ¬ BadPacket sc.first p := by
    rintro (h | h | h | ⟨-, h⟩) <;> omega
  rw [rxPacket_of_not_bad hgood, if_neg (by omega), hplen, hidx, htot, hconsistent, Bool.and_false,
    if_neg Bool.false_ne_true, ofNat_index_beq_last hi hn]
  split <;> rfl

/-! ## The scratch along a stream -/

/-- The scratch after the first `m` of the `n` packets of a message: what their chunks hold of the serialized
message. -/
def streamScratch (cmd len : Half) (data : Bytes) (n : Nat) : Nat → Scratch
  | 0 => Scratch.reset
  | m + 1 =>
    { acc := ((serialize cmd len data).take (62 * (m + 1))).drop 4
      first := false
      sum := ((serialize cmd len data).take (62 * (m + 1))).length
      k := m + 1
      prevIdx := BitVec.ofNat 4 m
      tot0 := BitVec.ofNat 4 (n - 1)
      command := cmd
      length := len }

theorem streamScratch_k (cmd len : Half) (data : Bytes) (n m : Nat) : (streamScratch cmd len data n m).k = m := by
  cases m <;> rfl

/-- 41_reassembly.md R158: the indices rise by one and the total stays, so STRICT finds nothing. -/
theorem streamScratch_consistent (cmd len : Half) (data : Bytes) {n m : Nat} (hm : m < n) (hn : n ≤ 16) :
    (streamScratch cmd len data n m).inconsistent (BitVec.ofNat 4 m) (BitVec.ofNat 4 (n - 1)) = false := by
  rw [← Bool.not_eq_true, Scratch.inconsistent_iff]
  cases m with
  | zero => simp [streamScratch, Scratch.reset]
  | succ m =>
    simp only [streamScratch, BitVec.toNat_ofNat, Bool.false_eq_true, if_false, ne_eq, not_true_eq_false, or_false]
    omega

/-- R160: the first packet gives the sub-header, and its data is the rest of the first chunk. -/
theorem takeFirst_framePacket (flip ack : Bool) (cmd len : Half) (data : Bytes) (n : Nat) :
    let chunk := chunkOf (serialize cmd len data) 0
    Scratch.reset.takeFirst (framePacket flip ack n 0 chunk) chunk.length (BitVec.ofNat 4 0) (BitVec.ofNat 4 (n - 1)) =
      streamScratch cmd len data n 1 := by
  intro chunk
  have hchunk : (serialize cmd len data).take (62 * 1) = chunk := rfl
  have hcommand : leHalf (framePacket flip ack n 0 chunk) 2 = cmd := by
    rw [leHalf_framePacket _ _ _ _ _ 0, leHalf_chunkOf_zero _ (by omega), leHalf_serialize_zero]
  have hlength : leHalf (framePacket flip ack n 0 chunk) 4 = len := by
    rw [leHalf_framePacket _ _ _ _ _ 2, leHalf_chunkOf_zero _ (by omega), leHalf_serialize_two]
  simp only [Scratch.takeFirst, streamScratch, hchunk, hcommand, hlength, take_drop_six_framePacket, Scratch.reset,
    Nat.zero_add]

/-- R162: a continuation appends its chunk. -/
theorem takeNext_framePacket (flip ack : Bool) {cmd len : Half} {data : Bytes} (n m : Nat)
    (hdata : len.toNat ≤ data.length) :
    let chunk := chunkOf (serialize cmd len data) (m + 1)
    (streamScratch cmd len data n (m + 1)).takeNext (framePacket flip ack n (m + 1) chunk) chunk.length
        (BitVec.ofNat 4 (m + 1)) =
      streamScratch cmd len data n (m + 2) := by
  intro chunk
  have hheader : 4 ≤ ((serialize cmd len data).take (62 * (m + 1))).length := by
    rw [List.length_take, length_serialize hdata]; omega
  simp only [Scratch.takeNext, streamScratch, take_drop_two_framePacket]
  rw [take_succ_chunkOf _ (m + 1), List.length_append, List.drop_append_of_le_length hheader]

theorem rxPacket_streamScratch (strict flip ack : Bool) {cmd len : Half} {data : Bytes} {n m : Nat}
    (hdata : len.toNat ≤ data.length) (hm : m < n) (hn : n ≤ 16) :
    rxPacket strict (streamScratch cmd len data n m) (framePacket flip ack n m (chunkOf (serialize cmd len data) m)) =
      .accepted (streamScratch cmd len data n (m + 1)) (decide (m + 1 = n)) := by
  have hk : (streamScratch cmd len data n m).k < 16 := by rw [streamScratch_k]; omega
  rw [rxPacket_framePacket flip ack hm hn hk (streamScratch_consistent cmd len data hm hn)]
  congr 1
  cases m with
  | zero => exact takeFirst_framePacket flip ack cmd len data n
  | succ m => exact takeNext_framePacket flip ack n m hdata

/-- The last `d + 1` packets of a stream complete it. -/
theorem feedStream_streamScratch (strict flip ack : Bool) {cmd len : Half} {data : Bytes} {n : Nat}
    (hdata : len.toNat ≤ data.length) (hn : n ≤ 16) (d m : Nat) (hm : m + (d + 1) = n) :
    feedStream strict (streamScratch cmd len data n m)
        ((List.range' m (d + 1)).map fun i => framePacket flip ack n i (chunkOf (serialize cmd len data) i)) =
      some (streamScratch cmd len data n n) := by
  induction d generalizing m with
  | zero =>
    rw [List.range'_succ, List.map_cons, feedStream, rxPacket_streamScratch strict flip ack hdata (by omega) hn]
    simp [hm]
  | succ d ih =>
    have hopen : decide (m + 1 = n) = false := decide_eq_false (by omega)
    rw [List.range'_succ, List.map_cons, feedStream, rxPacket_streamScratch strict flip ack hdata (by omega) hn, hopen]
    exact ih (m + 1) (by omega)

/-- The serialized message, whole, is a valid stream's scratch (R164): its data is the payload. -/
theorem streamScratch_last {cmd len : Half} {data : Bytes} {n : Nat} (hdata : len.toNat ≤ data.length)
    (hpos : 1 ≤ n) (hfits : 4 + len.toNat ≤ 62 * n) :
    let sc := streamScratch cmd len data n n
    sc.valid = true ∧ sc.command = cmd ∧ sc.length = len ∧ sc.acc = data.take len.toNat := by
  obtain ⟨m, rfl⟩ := Nat.exists_eq_add_of_le' hpos
  have hlength := length_serialize (cmd := cmd) hdata
  have hwhole : (serialize cmd len data).take (62 * (m + 1)) = serialize cmd len data :=
    List.take_of_length_le (by omega)
  refine ⟨?_, rfl, rfl, congrArg (List.drop 4) hwhole⟩
  rw [Scratch.valid_iff]
  simp only [streamScratch, hwhole, List.length_drop, hlength]
  omega

/-- R134, R164: the packets of an encoded stream, in order, are one valid stream with the encoded message. -/
theorem feedStream_encodeStream {cmd len : Half} {data : Bytes} {flip ack : Bool} {ps : List Bytes}
    (h : encodeStream cmd len data flip ack = some ps) (hdata : len.toNat ≤ data.length) (strict : Bool) :
    ∃ sc, feedStream strict Scratch.reset ps = some sc ∧
      sc.valid = true ∧ sc.command = cmd ∧ sc.length = len ∧ sc.acc = data.take len.toNat := by
  obtain ⟨h16, -, rfl⟩ := encodeStream_eq_some h
  have hcount := packetCount_eq len.toNat
  obtain ⟨d, hd⟩ : ∃ d, packetCount len.toNat = d + 1 := Nat.exists_eq_add_of_le' (by omega)
  refine ⟨_, ?_, streamScratch_last (n := packetCount len.toNat) hdata (by omega) (by omega)⟩
  have hfeed := feedStream_streamScratch strict flip ack (cmd := cmd) hdata h16 d 0 (by omega)
  rw [← hd, ← List.range_eq_range'] at hfeed
  exact hfeed

/-! ## CONSUME -/

theorem exec_consume_start {eot : Bool} {s : State} {w : Word} (hs : s.seq = .running w .start)
    (hconnected : s.connected = true) : exec (.consume eot) s = .next s.startStream := by
  show consumeLine _ _ _ = _
  unfold consumeLine
  rw [hs]
  simp only [hconnected, if_true]

theorem exec_consume_message {eot : Bool} {s : State} {w : Word} (hs : s.seq = .running w (.reassembled .msg)) :
    exec (.consume eot) s = .next (s.finish .none .message) := by
  show consumeLine _ _ _ = _
  unfold consumeLine
  rw [hs]
  rfl

/-- The state in which a stream's validation stands, its strings `bs` received and the scratch `sc` filled. -/
def State.streamReceived (w : Word) (sc : Scratch) (bs : List Bytes) (rest : List RecvAnswer) (s : State) : State :=
  { s with
    seq := .running w .validate
    rxState := .complete
    scratch := sc
    recvAnswers := rest
    trace := s.trace ++ recvEvents s.readTimeout bs }

/-- The state in which CONSUME leaves the block once it has received a message. -/
def State.messageConsumed (w : Word) (sc : Scratch) (bs : List Bytes) (rest : List RecvAnswer) (s : State) : State :=
  (((s.streamReceived w sc bs rest).commit sc.command sc.length sc.acc).goto (.reassembled .msg)).finish .none .message

theorem State.read_messageConsumed (s : State) (w : Word) (sc : Scratch) (bs : List Bytes) (rest : List RecvAnswer)
    (a : Nat) : Memory.read (s.messageConsumed w sc bs rest).mem a =
      if 0x800 ≤ a ∧ a < 0xBDC then (padTo 988 (sc.acc.take sc.length.toNat)).getD (a - 0x800) 0
      else Memory.read s.mem a :=
  State.read_commit (s.streamReceived w sc bs rest) sc.command sc.length sc.acc a

theorem State.messageConsumed_rxCommand (s : State) (w : Word) (sc : Scratch) (bs : List Bytes)
    (rest : List RecvAnswer) : (s.messageConsumed w sc bs rest).rxCommand = sc.command :=
  State.commit_rxCommand (s.streamReceived w sc bs rest) sc.command sc.length sc.acc

theorem State.messageConsumed_rxLength (s : State) (w : Word) (sc : Scratch) (bs : List Bytes)
    (rest : List RecvAnswer) : (s.messageConsumed w sc bs rest).rxLength = sc.length :=
  State.commit_rxLength (s.streamReceived w sc bs rest) sc.command sc.length sc.acc

theorem State.messageConsumed_rxPayload (s : State) (w : Word) {sc : Scratch} (bs : List Bytes)
    (rest : List RecvAnswer) (hvalid : sc.valid = true) (hfits : sc.length.toNat ≤ 988) :
    (s.messageConsumed w sc bs rest).rxPayload = sc.acc :=
  have ⟨hacc, _⟩ := sc.valid_iff.mp hvalid
  State.commit_rxPayload (s.streamReceived w sc bs rest) sc.command sc.length hacc hfits

theorem State.messageConsumed_hostSide (s : State) (w : Word) (sc : Scratch) (bs : List Bytes)
    (rest : List RecvAnswer) : SameHostSide s (s.messageConsumed w sc bs rest) :=
  ⟨rfl, rfl, rfl, rfl, rfl, rfl, rfl, rfl, rfl, rfl, rfl, rfl⟩

/-- R284: the command's record of its end. -/
theorem State.messageConsumed_ended (s : State) (w : Word) (sc : Scratch) (bs : List Bytes) (rest : List RecvAnswer) :
    Ended w .none .message (s.messageConsumed w sc bs rest) :=
  State.finish_ended (pos := .reassembled .msg) rfl .none .message

/-- R150, R151, R169: CONSUME of one valid stream that is neither a debug message nor a retry request commits it. -/
theorem RunsTo.consumeMessage {eot : Bool} {s : State} {w : Word} {bs : List Bytes} {sc : Scratch}
    {rest : List RecvAnswer} (hd : decode w = .ok (.consume eot)) (hs : s.seq = .running w .start)
    (hconnected : s.connected = true) (hcancel : s.cancelPend = false) (hlength : ∀ b ∈ bs, b.length ≤ 64)
    (hanswers : s.recvAnswers = bs.map RecvAnswer.pkt ++ rest)
    (hfeed : feedStream s.strict Scratch.reset bs = some sc) (hvalid : sc.valid = true)
    (hdebug : sc.command ≠ Config.params.cmdDbgMessage) (hretry : sc.command ≠ Config.params.cmdIdRetry) :
    RunsTo s (s.messageConsumed w sc bs rest) := by
  have hopen : s.startStream.seq = .running w .rxCheck := by
    unfold State.startStream
    rw [State.goto_seq, hs, Seq.goto_running]
  have received : RunsTo s.startStream (s.streamReceived w sc bs rest) :=
    RunsTo.stream (.inl ⟨eot, rfl⟩) hd hopen rfl rfl rfl hcancel hlength hanswers hfeed
  have dispatched : exec (.consume eot) (s.streamReceived w sc bs rest) =
      .next (((s.streamReceived w sc bs rest).commit sc.command sc.length sc.acc).goto (.reassembled .msg)) := by
    rw [exec_consume_reassemble (w := w) (pos := .validate) rfl rfl, reassembleLine,
      dispatchStream_message hvalid hdebug hretry]
    rfl
  exact RunsTo.head hs hd (exec_consume_start hs hconnected) (received.trans
    (RunsTo.head rfl hd dispatched (RunsTo.head rfl hd (exec_consume_message rfl) (RunsTo.refl _))))

/-- Settles O32: the packets of the stream feed the scratch to the encoded message, which CONSUME commits whole; nothing
on the way writes a host register or another byte. -/
theorem consumeRecoversTheEncodedMessage : Obligations.ConsumeRecoversTheEncodedMessage := by
  intro eot flip ack s w cmd len data ps rest hd hs hconnected hcancel hdata hps hdebug hretry hanswers
  obtain ⟨-, hfits, -⟩ := encodeStream_eq_some hps
  obtain ⟨-, -, -, hlength⟩ := encodeStream_length hps
  obtain ⟨sc, hfeed, hvalid, rfl, rfl, hacc⟩ := feedStream_encodeStream hps hdata s.strict
  refine ⟨s.messageConsumed w sc ps rest, ?run, s.messageConsumed_ended w sc ps rest, rfl,
    s.messageConsumed_rxCommand w sc ps rest, s.messageConsumed_rxLength w sc ps rest, ?payload, ?zeros, ?frame,
    s.messageConsumed_hostSide w sc ps rest, rfl, hconnected, rfl, rfl⟩
  case run =>
    exact RunsTo.consumeMessage hd hs hconnected hcancel (fun b hb => (hlength b hb).le) hanswers hfeed hvalid hdebug
      hretry
  case payload => exact (s.messageConsumed_rxPayload w ps rest hvalid hfits).trans hacc
  case zeros =>
    intro j hj hj'
    rw [State.read_messageConsumed, if_pos (by omega), Nat.add_sub_cancel_left, getD_padTo _ _ hj']
    exact List.getD_eq_default _ _ (Nat.le_trans (List.length_take_le _ _) hj)
  case frame =>
    intro a ha
    rw [State.read_messageConsumed, if_neg (by omega)]

end Sys2Proof.Machine

/-! SUPPORT. One line of a running Reassemble (41_reassembly.md R151), the same in CONSUME and in REQUEST: what a
received string does to the stream (R154 to R162), and how a complete stream is dispatched (R164 to R169), with the
obligations about them. -/

namespace Sys2Proof.Machine

/-! ## One received string -/

/-- 41_reassembly.md R155, R156: the lengths at which a string is no BAD_PACKET. -/
theorem not_badPacket {first : Bool} {b : Bytes} (hlength : 2 ≤ b.length) (hplen : plenOf (b.getD 0 0) ≤ 62)
    (hfits : 2 + plenOf (b.getD 0 0) ≤ b.length) (hfirst : first = true → 6 ≤ b.length) : ¬ BadPacket first b := by
  rintro (h | h | h | ⟨h, hshort⟩)
  · omega
  · omega
  · omega
  · exact Nat.not_lt.mpr (hfirst h) hshort

theorem rxPacket_tooLong {strict : Bool} {sc : Scratch} {b : Bytes} (hgood : ¬ BadPacket sc.first b)
    (hlong : 16 < sc.k + 1) : rxPacket strict sc b = .failed .streamTooLong := by
  rw [rxPacket_of_not_bad hgood, if_pos hlong]

theorem rxPacket_inconsistent {sc : Scratch} {b : Bytes} (hgood : ¬ BadPacket sc.first b) (hshort : ¬ 16 < sc.k + 1)
    (h : sc.inconsistent (idxOf (b.getD 1 0)) (totOf (b.getD 1 0)) = true) :
    rxPacket true sc b = .failed .streamInconsistent := by
  rw [rxPacket_of_not_bad hgood, if_neg hshort, h, Bool.and_self, if_pos rfl]

/-- R160 to R162: what is left when no check of R154 fails the string. -/
theorem rxPacket_accepted {strict : Bool} {sc : Scratch} {b : Bytes} (hgood : ¬ BadPacket sc.first b)
    (hshort : ¬ 16 < sc.k + 1)
    (h : strict = true → sc.inconsistent (idxOf (b.getD 1 0)) (totOf (b.getD 1 0)) = false) :
    rxPacket strict sc b = .accepted
      (if sc.first then sc.takeFirst b (plenOf (b.getD 0 0)) (idxOf (b.getD 1 0)) (totOf (b.getD 1 0))
        else sc.takeNext b (plenOf (b.getD 0 0)) (idxOf (b.getD 1 0)))
      (idxOf (b.getD 1 0) == totOf (b.getD 1 0)) := by
  rw [rxPacket_of_not_bad hgood, if_neg hshort, if_neg (by simpa using h)]
  split <;> rfl

/-- The strict stream check passes (41_reassembly.md R158). -/
theorem Scratch.inconsistent_eq_false_iff (sc : Scratch) (idx tot : BitVec 4) :
    sc.inconsistent idx tot = false ↔
      if sc.first then idx.toNat = 0 else idx.toNat = sc.prevIdx.toNat + 1 ∧ tot = sc.tot0 := by
  rw [← Bool.not_eq_true, Scratch.inconsistent_iff]
  cases sc.first <;> simp

/-! ## The bytes of a commit -/

/-- R169: RX_DATA after a commit. -/
theorem State.read_commit_rxData (s : State) (c l : Half) (acc : Bytes) {j : Nat} (hj : j < 988) :
    Memory.read (s.commit c l acc).mem (0x800 + j) = if j < l.toNat then acc.getD j 0 else 0 := by
  rw [State.read_commit, if_pos (by omega), Nat.add_sub_cancel_left, getD_padTo _ _ hj, List.getD_eq_getElem?_getD,
    List.getElem?_take]
  split
  · exact (List.getD_eq_getElem?_getD ..).symm
  · rfl

theorem State.commit_sameMemoryOutside (s : State) (c l : Half) (acc : Bytes) :
    SameMemoryOutside 0x800 988 s (s.commit c l acc) := by
  intro a ha
  rw [State.read_commit, if_neg (by omega)]

/-! ## The units of a debug message -/

@[simp] theorem length_debugUnits (l : Half) (acc : Bytes) : (debugUnits l acc).length = l.toNat / 2 := by
  simp [debugUnits]

theorem getD_debugUnits (l : Half) (acc : Bytes) {j : Nat} (h : j < (debugUnits l acc).length) :
    (debugUnits l acc).getD j 0 = leHalf acc (2 * j) := by
  rw [List.getD_eq_getElem _ _ h]
  simp [debugUnits]

/-! ## The lines of Reassemble -/

section Lines

variable {i : Instr} (hi : (∃ eot, i = .consume eot) ∨ ∃ arg eot, i = .request arg eot) {s : State} {w : Word}
include hi

/-- The two commands that run Reassemble run the same lines, each with its own EOT. -/
theorem exec_reassembleLine {pos : Pos} (hs : s.seq = .running w pos) (hp : reassembleLinePos pos = true) :
    ∃ eot, exec i s = reassembleLine Config.params eot pos s := by
  obtain ⟨eot, rfl⟩ | ⟨arg, eot, rfl⟩ := hi
  · exact ⟨eot, exec_consume_reassemble hs hp⟩
  · exact ⟨eot, exec_request_reassemble hs hp⟩

/-- R151: a string answered to Reassemble's Recv is taken, whatever EOT is. -/
theorem exec_receiving_pkt {b : Bytes} (hs : s.seq = .running w .receiving) (ha : s.recvAnswer = .pkt b) :
    exec i s = .next ((s.received s.readTimeout).takePacket b) := by
  obtain ⟨eot, line⟩ := exec_reassembleLine hi hs rfl
  rw [line, reassembleLine, State.receivePacket, ha]

/-- R154: a string that fails a check fails the stream with its code. -/
theorem exec_receiving_failed {b : Bytes} {c : ErrCode} (hs : s.seq = .running w .receiving)
    (ha : s.recvAnswer = .pkt b) (hrx : rxPacket s.strict s.scratch b = .failed c) :
    exec i s = .next { s.received s.readTimeout with
      rxState := .failed, seq := .running w (.reassembled (.fail c)) } := by
  rw [exec_receiving_pkt hi hs ha, State.takePacket, State.received_strict, State.received_scratch, hrx]
  exact congrArg _ (State.goto_of_running (s := (s.received s.readTimeout).setRx .failed) hs _)

/-- R160 to R162: an accepted string goes into the scratch, and RX_STATE moves on with a stream's first. -/
theorem exec_receiving_accepted {b : Bytes} {sc : Scratch} {complete : Bool} (hs : s.seq = .running w .receiving)
    (ha : s.recvAnswer = .pkt b) (hrx : rxPacket s.strict s.scratch b = .accepted sc complete) :
    exec i s = .next { s.received s.readTimeout with
      scratch := sc
      rxState := if s.scratch.first then .accumulatingContinuation else s.rxState
      seq := .running w (if complete then .streamComplete else .rxCheck) } := by
  rw [exec_receiving_pkt hi hs ha, State.takePacket, State.received_strict, State.received_scratch, hrx]
  exact congrArg _ (State.goto_of_running (w := w) (pos := .receiving) (by exact hs) _)

theorem exec_validate (hs : s.seq = .running w .validate) : exec i s = .next (s.dispatchStream Config.params) := by
  obtain ⟨eot, line⟩ := exec_reassembleLine hi hs rfl
  rw [line, reassembleLine]

theorem exec_debugCount (hs : s.seq = .running w .debugCount) :
    exec i s = .next { s with dbgCount := s.dbgCount + 1, seq := .running w .streamStart } := by
  obtain ⟨eot, line⟩ := exec_reassembleLine hi hs rfl
  rw [line, reassembleLine, State.countDebug, State.goto_of_running (w := w) (pos := .debugCount) (by exact hs)]

end Lines

/-! ## The obligations -/

/-- Settles O24: the first check that applies is the one whose code `rxPacket` answers. -/
theorem packetCheckOrder : Obligations.PacketCheckOrder := by
  intro i s w b hi hs ha plen idx bad long inconsistent fails
  have fails_of : ∀ {c}, rxPacket s.strict s.scratch b = .failed c → fails c :=
    fun h => ⟨s.scratch, exec_receiving_failed hi hs ha h⟩
  refine ⟨fun hbad => fails_of (rxPacket_bad hbad), fun hgood hlong => fails_of (rxPacket_tooLong hgood hlong), ?strict⟩
  case strict =>
    rintro hgood hshort ⟨hstrict, h⟩
    refine fails_of ?_
    rw [hstrict]
    exact rxPacket_inconsistent hgood hshort ((Scratch.inconsistent_iff ..).mpr h)

/-- Settles O25: the hypotheses are the negations of all the checks, so `rxPacket` accepts the string, as a first packet
or as a continuation. -/
theorem acceptedPacketIsAccumulated : Obligations.AcceptedPacketIsAccumulated := by
  intro i s w b hi hs ha hstrict hlength hplen hfits hk plen next
  have accumulated (hgood : ¬ BadPacket s.scratch.first b) :=
    exec_receiving_accepted hi hs ha (rxPacket_accepted hgood (by omega)
      fun h => (Scratch.inconsistent_eq_false_iff ..).mpr (hstrict h))
  simp only [beq_iff_eq] at accumulated
  refine ⟨fun hfirst hsix => ?first, fun hfirst => ?continuation⟩
  case first =>
    rw [accumulated (not_badPacket hlength hplen hfits fun _ => hsix), hfirst]
    rfl
  case continuation =>
    rw [accumulated (not_badPacket hlength hplen hfits fun h => by simp [hfirst] at h), hfirst]
    rfl

/-- Settles O27: the validation dispatches the stream to the commit, whose header, bytes and frame are its own laws. -/
theorem messageIsCommittedWhole : Obligations.MessageIsCommittedWhole := by
  intro i s w hi hs hlength hsum hdebug hretry
  have hvalid : s.scratch.valid = true := s.scratch.valid_iff.mpr ⟨hlength, hsum⟩
  have committed := exec_validate hi hs
  rw [dispatchStream_message hvalid hdebug hretry] at committed
  exact ⟨_, committed, s.commit_rxCommand _ _ s.scratch.acc, s.commit_rxLength _ _ s.scratch.acc,
    fun j hj => s.read_commit_rxData s.scratch.command _ _ hj,
    s.commit_sameMemoryOutside s.scratch.command s.scratch.length s.scratch.acc,
    State.goto_of_running (s := s.commit ..) hs _⟩

/-- Settles O26: either inequality makes the stream invalid, and that is decided before its command is looked at. -/
theorem lengthMismatchFailsTheStream : Obligations.LengthMismatchFailsTheStream := by
  intro i s w hi hs hmismatch
  have hinvalid : s.scratch.valid = false := by
    rw [← Bool.not_eq_true, Scratch.valid_iff]
    omega
  rw [exec_validate hi hs, dispatchStream_of_invalid hinvalid]
  exact congrArg _ (State.goto_of_running (s := s.setRx .failed) hs _)

/-- Settles O28: one line emits the units, the next counts the message. -/
theorem debugMessageIsEmittedAndCounted : Obligations.DebugMessageIsEmittedAndCounted := by
  intro i s w hi
  refine ⟨fun hs hlength hsum hdebug => ?emitted, exec_debugCount hi⟩
  have hvalid : s.scratch.valid = true := s.scratch.valid_iff.mpr ⟨hlength, hsum⟩
  refine ⟨debugUnits s.scratch.length s.scratch.acc, length_debugUnits .., fun j hj => getD_debugUnits _ _ hj, ?_⟩
  rw [exec_validate hi hs, dispatchStream_debug hvalid hdebug]
  exact congrArg _ (State.goto_of_running (s := s.record _) hs _)

/-- Settles O29: the dispatch of a valid retry-requested stream only moves SEQ. -/
theorem retryRequestedCommitsNothing : Obligations.RetryRequestedCommitsNothing := by
  intro i s w hi hs hlength hsum hretry
  have hvalid : s.scratch.valid = true := s.scratch.valid_iff.mpr ⟨hlength, hsum⟩
  rw [exec_validate hi hs, dispatchStream_retry hvalid hretry, State.goto_of_running hs]

end Sys2Proof.Machine

/-! SUPPORT. The two lines of ADVANCE and of RESET_FLIP (42_sequence_controller.md R191, R193): the first stores FLIP, the
second is the finish, with the obligations about them. -/

namespace Sys2Proof.Machine

/-! ## The lines -/

theorem exec_advance_start {s : State} {w : Word} (hs : s.seq = .running w .start) :
    exec .advance s = .next { s with flip := !s.flip, seq := .running w (.finishing .none .none) } := by
  show execAdvance s = _
  unfold execAdvance
  rw [hs]
  exact congrArg _ (State.goto_of_running (s := s.advanceFlip) hs _)

theorem exec_advance_finishing {s : State} {w : Word} {err : ErrCode} {outcome : Reply}
    (hs : s.seq = .running w (.finishing err outcome)) : exec .advance s = .next (s.finish err outcome) := by
  show execAdvance s = _
  unfold execAdvance
  rw [hs]

theorem exec_resetFlip_start {arg : Bool} {s : State} {w : Word} (hs : s.seq = .running w .start) :
    exec (.resetFlip arg) s = .next { s with flip := arg, seq := .running w (.finishing .none .none) } := by
  show execResetFlip arg s = _
  unfold execResetFlip
  rw [hs]
  rfl

theorem exec_resetFlip_finishing {arg : Bool} {s : State} {w : Word} {err : ErrCode} {outcome : Reply}
    (hs : s.seq = .running w (.finishing err outcome)) : exec (.resetFlip arg) s = .next (s.finish err outcome) := by
  show execResetFlip arg s = _
  unfold execResetFlip
  rw [hs]

/-! ## The runs -/

/-- A line that stands before the command's finish, and that finish: the record of the end names the command's own row of
the opcode table (60_exceptions.md R284). -/
theorem sequencerRun_line_finish {i : Instr} {s t : State} {w : Word} {pos pos' : Pos} {err : ErrCode} {outcome : Reply}
    (hd : decode w = .ok i) (hs : s.seq = .running w pos) (line : exec i s = .next t) (ht : t.seq = .running w pos')
    (last : exec i t = .next (t.finish err outcome)) :
    sequencerRun 2 s = .next { t with
      errCode := err, outcome := outcome, fatalCause := .none, lastOp := opField (tableMatch i), cancelPend := false,
      done := true, seq := .idle } := by
  obtain ⟨-, hop⟩ := fields_of_decode hd
  calc sequencerRun 2 s
      = sequencerRun 1 t := sequencerRun_succ ((sequencerStep_of_decode hs hd).trans line) 1
    _ = sequencerRun 0 (t.finish err outcome) := sequencerRun_succ ((sequencerStep_of_decode ht hd).trans last) 0
    _ = .next (t.finish err outcome) := rfl
    _ = _ := by rw [State.finish_of_running ht, hop]

/-! ## The obligations -/

/-- Settles O34: the toggle is the first line, the finish the second. -/
theorem advanceTogglesTheFlipBit : Obligations.AdvanceTogglesTheFlipBit := by
  intro s w hs
  exact ⟨exec_advance_start hs, fun hd =>
    sequencerRun_line_finish hd hs (exec_advance_start hs) rfl (exec_advance_finishing rfl)⟩

/-- Settles O35: storing ARG is the first line, the finish the second. -/
theorem resetFlipSetsTheFlipBit : Obligations.ResetFlipSetsTheFlipBit := by
  intro s w arg hs
  exact ⟨exec_resetFlip_start hs, fun hd =>
    sequencerRun_line_finish hd hs (exec_resetFlip_start hs) rfl (exec_resetFlip_finishing rfl)⟩

end Sys2Proof.Machine

/-! SUPPORT. The lines of REQUEST and SEND_ONLY outside TransmitStream and Reassemble (43_coordinator.md R210 to R220,
R225): the first lines, which the two commands share, and REQUEST's lines after a transmission, with the obligations
about them. -/

namespace Sys2Proof.Machine

/-! ## The packet buffer after `StorePkt` -/

theorem State.storePkt_sameMemoryOutside (ps : List Bytes) (s : State) :
    SameMemoryOutside 0x1000 0x400 s (s.storePkt ps) := by
  intro a ha
  rw [State.read_storePkt, if_neg (by omega)]

theorem State.storePkt_pktCount_toNat {ps : List Bytes} (h : ps.length ≤ 16) (s : State) :
    (s.storePkt ps).pktCount.toNat = ps.length := by
  rw [State.storePkt_pktCount, BitVec.toNat_ofNat, Nat.mod_eq_of_lt (by omega)]

/-! ## The first lines of a sending command -/

/-- The first lines of REQUEST and of SEND_ONLY, to `StorePkt`, with cmd0 left at `c` (43_coordinator.md R211, R225). -/
def State.startSending (c : Half) (s : State) : State :=
  if s.connected then
    match s.txStream s.ackEn with
    | none => s.finish .oversizeMessage .none
    | some ps => (({ s with cmd0 := c } : State).storePkt ps).goto .advance
  else s.finish .notConnected .none

/-- R216: REQUEST samples cmd0. -/
theorem State.startRequest_eq (s : State) : s.startRequest = s.startSending s.txCommand := rfl

/-- SEND_ONLY leaves cmd0 alone. -/
theorem State.startSendOnly_eq (s : State) : s.startSendOnly = s.startSending s.cmd0 := rfl

/-- The state in which a sending command stands once it has stored the stream `ps`. -/
def State.streamStored (w : Word) (c : Half) (ps : List Bytes) (s : State) : State :=
  { s.storePkt ps with cmd0 := c, seq := .running w .advance }

theorem State.streamStored_hostSide (s : State) (w : Word) (c : Half) (ps : List Bytes) :
    SameHostSide s (s.streamStored w c ps) :=
  ⟨rfl, rfl, rfl, rfl, rfl, rfl, rfl, rfl, rfl, rfl, rfl, rfl⟩

theorem State.startSending_of_not_connected {s : State} (h : s.connected = false) (c : Half) :
    s.startSending c = s.finish .notConnected .none := by
  rw [State.startSending, if_neg (by rw [h]; exact Bool.false_ne_true)]

theorem State.startSending_of_oversize {s : State} (hconnected : s.connected = true) (hlong : 988 < s.txLength.toNat)
    (c : Half) : s.startSending c = s.finish .oversizeMessage .none := by
  have hnone : s.txStream s.ackEn = none := (encodeStream_eq_none_iff ..).mpr hlong
  rw [State.startSending, if_pos hconnected, hnone]

theorem State.exists_encodeStream {s : State} (h : s.txLength.toNat ≤ 988) :
    ∃ ps, encodeStream s.txCommand s.txLength s.txPayload s.flip s.ackEn = some ps :=
  ⟨_, encodeStream_of_le s.txCommand s.txPayload s.flip s.ackEn h⟩

theorem State.startSending_of_stream {s : State} {w : Word} {pos : Pos} {ps : List Bytes} (hs : s.seq = .running w pos)
    (hconnected : s.connected = true)
    (hps : encodeStream s.txCommand s.txLength s.txPayload s.flip s.ackEn = some ps) (c : Half) :
    s.startSending c = s.streamStored w c ps := by
  have hsome : s.txStream s.ackEn = some ps := hps
  rw [State.startSending, if_pos hconnected, hsome]
  exact State.goto_of_running (w := w) (pos := pos) (by exact hs) _

/-! ## The lines of REQUEST -/

section RequestLines

variable {arg eot : Bool} {s : State} {w : Word}

theorem exec_request_start (hs : s.seq = .running w .start) :
    exec (.request arg eot) s = .next (s.startSending s.txCommand) := by
  show requestLine _ _ _ _ = _
  rw [requestLine, hs, ← State.startRequest_eq]

theorem exec_request_advance (hs : s.seq = .running w .advance) :
    exec (.request arg eot) s = .next { s with flip := !s.flip, seq := .running w .clearRetries } := by
  show requestLine _ _ _ _ = _
  rw [requestLine, hs]
  exact congrArg _ (State.goto_of_running (s := s.advanceFlip) hs _)

theorem exec_request_clearRetries (hs : s.seq = .running w .clearRetries) :
    exec (.request arg eot) s = .next { s with retryCount := 0, seq := .running w (.transmit 0) } := by
  show requestLine _ _ _ _ = _
  rw [requestLine, hs]
  rfl

theorem exec_request_transmitted (hs : s.seq = .running w .transmitted) :
    exec (.request arg eot) s = .next { s with seq := .running w (if s.ackEn then .ackCheck else .streamStart) } := by
  show requestLine _ _ _ _ = _
  rw [requestLine, hs]
  exact congrArg _ (State.goto_of_running hs _)

theorem exec_request_ackCheck (hs : s.seq = .running w .ackCheck) :
    exec (.request arg eot) s = .next (s.checkCancel .plain .ackReceiving) := by
  show requestLine _ _ _ _ = _
  rw [requestLine, hs]

theorem exec_request_ackReceiving (hs : s.seq = .running w .ackReceiving) :
    exec (.request arg eot) s = .next (s.receiveAck eot) := by
  show requestLine _ _ _ _ = _
  rw [requestLine, hs]

theorem exec_request_reassembled {o : RxOutcome} (hs : s.seq = .running w (.reassembled o)) :
    exec (.request arg eot) s = .next (s.decideReply Config.params arg o) := by
  show requestLine _ _ _ _ = _
  rw [requestLine, hs]

end RequestLines

/-! ## The lines of SEND_ONLY -/

theorem exec_sendOnly_start {eot : Bool} {s : State} {w : Word} (hs : s.seq = .running w .start) :
    exec (.sendOnly eot) s = .next (s.startSending s.cmd0) := by
  show execSendOnly _ _ = _
  rw [execSendOnly, hs, ← State.startSendOnly_eq]

theorem exec_sendOnly_advance {eot : Bool} {s : State} {w : Word} (hs : s.seq = .running w .advance) :
    exec (.sendOnly eot) s = .next { s with flip := !s.flip, seq := .running w (.transmit 0) } := by
  show execSendOnly _ _ = _
  rw [execSendOnly, hs]
  exact congrArg _ (State.goto_of_running (s := s.advanceFlip) hs _)

/-! ## From the first line to the transmission -/

section Sending

variable {i : Instr} (hi : (∃ arg eot, i = .request arg eot) ∨ ∃ eot, i = .sendOnly eot) {s : State} {w : Word}
include hi

/-- The two sending commands begin alike; only REQUEST samples cmd0. -/
theorem exec_sending_start (hs : s.seq = .running w .start) :
    ∃ c, exec i s = .next (s.startSending c) ∧ ((∃ arg eot, i = .request arg eot) → c = s.txCommand) := by
  obtain ⟨arg, eot, rfl⟩ | ⟨eot, rfl⟩ := hi
  · exact ⟨s.txCommand, exec_request_start hs, fun _ => rfl⟩
  · exact ⟨s.cmd0, exec_sendOnly_start hs, fun ⟨_, _, h⟩ => nomatch h⟩

/-- R211: between `StorePkt` and the first packet FLIP advances once, and REQUEST clears RETRY_COUNT. -/
theorem RunsTo.advanceToTransmit (hd : decode w = .ok i) (hs : s.seq = .running w .advance) :
    ∃ n, RunsTo s { s with flip := !s.flip, retryCount := n, seq := .running w (.transmit 0) } ∧
      ((∃ arg eot, i = .request arg eot) → n = 0) ∧ ((∃ eot, i = .sendOnly eot) → n = s.retryCount) := by
  obtain ⟨arg, eot, rfl⟩ | ⟨eot, rfl⟩ := hi
  · refine ⟨0, ?_, fun _ => rfl, fun ⟨_, h⟩ => nomatch h⟩
    exact RunsTo.head hs hd (exec_request_advance hs)
      (RunsTo.head rfl hd (exec_request_clearRetries rfl) (RunsTo.refl _))
  · refine ⟨s.retryCount, ?_, fun ⟨_, _, h⟩ => (nomatch h), fun _ => rfl⟩
    exact RunsTo.head hs hd (exec_sendOnly_advance hs) (RunsTo.refl _)

end Sending

/-- Settles O36: the first line is `startSending`, by the two conditions it looks at, and the run to the first packet
touches FLIP and RETRY_COUNT only. -/
theorem sendingCommandsEncodeThenAdvance : Obligations.SendingCommandsEncodeThenAdvance := by
  intro i s w hi hd hs
  obtain ⟨c, start, hc⟩ := exec_sending_start hi hs
  refine ⟨fun hnot => ?noSession, fun hconnected hlong => ?oversize, fun hconnected hfits => ?stored⟩
  case noSession => rw [start, State.startSending_of_not_connected hnot]
  case oversize => rw [start, State.startSending_of_oversize hconnected hlong]
  case stored =>
    obtain ⟨ps, hps⟩ := State.exists_encodeStream hfits
    obtain ⟨-, -, h16, hlength⟩ := encodeStream_length hps
    rw [State.startSending_of_stream hs hconnected hps] at start
    obtain ⟨n, run, hrequest, hsendOnly⟩ := RunsTo.advanceToTransmit hi hd (s := s.streamStored w c ps) rfl
    exact ⟨ps, s.streamStored w c ps, _, hps, start, rfl, rfl, fun j hj => s.packet_storePkt hlength h16 hj,
      s.storePkt_pktCount_toNat h16, s.storePkt_sameMemoryOutside ps, s.streamStored_hostSide w c ps,
      ⟨rfl, rfl, rfl, rfl, rfl, rfl⟩, rfl, run, rfl, rfl, rfl, rfl, rfl, fun h => ⟨hrequest h, hc h⟩, hsendOnly⟩

/-! ## The acknowledgment -/

theorem State.receiveAck_pkt {s : State} {w : Word} {b : Bytes} (hs : s.seq = .running w .ackReceiving)
    (ha : s.recvAnswer = .pkt b) (eot : Bool) :
    s.receiveAck eot = { s.received s.readTimeout with seq := .running w .streamStart } := by
  rw [State.receiveAck, ha]
  exact State.goto_of_running (s := s.received s.readTimeout) hs _

theorem State.receiveAck_timeout {s : State} (ha : s.recvAnswer = .timeout) (eot : Bool) :
    s.receiveAck eot = (s.received s.readTimeout).recvFailed eot .rxTimeout (State.finish .noAck .noMessage) := by
  rw [State.receiveAck, ha]

theorem State.receiveAck_ioerr {s : State} (ha : s.recvAnswer = .ioerr) (eot : Bool) :
    s.receiveAck eot = (s.received s.readTimeout).recvFailed eot .rxIoErr (State.finish .noAck .noMessage) := by
  rw [State.receiveAck, ha]

/-- Settles O39: by the three lines, and on the last by the Transport's answer and the policy for a failed one. -/
theorem acknowledgmentIsReceivedAndDiscarded : Obligations.AcknowledgmentIsReceivedAndDiscarded := by
  intro arg eot s w after
  refine ⟨exec_request_transmitted, fun hs hcancel => ?check, fun hs => ?answered⟩
  case check => rw [exec_request_ackCheck hs, State.checkCancel_of_not hcancel, State.goto_of_running hs]
  case answered =>
    rw [exec_request_ackReceiving hs]
    refine ⟨fun b ha => ?pkt, ?fatalTimeout, ?fatalIoErr, ?soft⟩
    case pkt => rw [State.receiveAck_pkt hs ha]
    case fatalTimeout =>
      rintro rfl ha
      rw [State.receiveAck_timeout ha, State.recvFailed, if_pos rfl]
    case fatalIoErr =>
      rintro rfl ha
      rw [State.receiveAck_ioerr ha, State.recvFailed, if_pos rfl]
    case soft =>
      rintro rfl (ha | ha)
      · rw [State.receiveAck_timeout ha, State.recvFailed, if_neg Bool.false_ne_true]
      · rw [State.receiveAck_ioerr ha, State.recvFailed, if_neg Bool.false_ne_true]

/-! ## The reply -/

/-- R215 (b), R216, as a proposition. -/
theorem State.strayDeviceStatus_iff (p : Config.Params) (s : State) :
    s.strayDeviceStatus p = true ↔ s.rxCommand = p.cmdDeviceStatus ∧ s.cmd0 ≠ p.cmdDeviceStatus := by
  rw [State.strayDeviceStatus, Bool.and_eq_true, beq_iff_eq, bne_iff_ne]

theorem State.decideReply_message {p : Config.Params} {s : State}
    (h : ¬ (s.rxCommand = p.cmdDeviceStatus ∧ s.cmd0 ≠ p.cmdDeviceStatus)) (arg : Bool) :
    s.decideReply p arg .msg = s.finish .none .message := by
  rw [State.decideReply, if_neg (mt (s.strayDeviceStatus_iff p).mp h)]

theorem State.decideReply_stray {p : Config.Params} {s : State}
    (h : s.rxCommand = p.cmdDeviceStatus ∧ s.cmd0 ≠ p.cmdDeviceStatus) (arg : Bool) :
    s.decideReply p arg .msg = s.goto (.busy .deviceStatus) := by
  rw [State.decideReply, if_pos ((s.strayDeviceStatus_iff p).mpr h)]

/-- R215 (a): under ARG = 1 a retry-requested reply is transient busy. -/
theorem State.decideReply_retry (p : Config.Params) (s : State) :
    s.decideReply p true .retry = s.goto (.busy .retry) := rfl

/-- Settles O40: by what Reassemble has returned. -/
theorem replyDecision : Obligations.ReplyDecision := by
  intro arg eot s w stray
  refine ⟨exec_request_reassembled, fun c => exec_request_reassembled, fun hs => ⟨?notRetrying, ?retrying⟩,
    fun hs => ⟨fun h => ?message, fun h => ?busy⟩⟩
  case notRetrying =>
    rintro rfl
    exact exec_request_reassembled hs
  case retrying =>
    rintro rfl
    rw [exec_request_reassembled hs, State.decideReply_retry, State.goto_of_running hs]
  case message => rw [exec_request_reassembled hs, State.decideReply_message h]
  case busy => rw [exec_request_reassembled hs, State.decideReply_stray h, State.goto_of_running hs]

end Sys2Proof.Machine

/-! SUPPORT. REQUEST over a Transport that answers every Send OK and delivers whole streams (43_coordinator.md R224):
the bound on what a stream accumulates, one exchange of a transmission and a reply, the retries as an induction over the
retry-requested replies, and the obligation about the whole command. -/

namespace Sys2Proof.Machine

/-! ## What a stream accumulates -/

/-- What an accepted string has passed, and what it leaves in the scratch (41_reassembly.md R154 to R162). -/
theorem scratch_of_rxPacket_accepted {strict complete : Bool} {sc sc' : Scratch} {b : Bytes}
    (h : rxPacket strict sc b = .accepted sc' complete) :
    plenOf (b.getD 0 0) ≤ 62 ∧ sc.k + 1 ≤ 16 ∧
      sc' = if sc.first then sc.takeFirst b (plenOf (b.getD 0 0)) (idxOf (b.getD 1 0)) (totOf (b.getD 1 0))
        else sc.takeNext b (plenOf (b.getD 0 0)) (idxOf (b.getD 1 0)) := by
  by_cases hbad : BadPacket sc.first b
  · rw [rxPacket_bad hbad] at h
    cases h
  by_cases hlong : 16 < sc.k + 1
  · rw [rxPacket_tooLong hbad hlong] at h
    cases h
  have hplen : plenOf (b.getD 0 0) ≤ 62 := Nat.le_of_not_lt fun h62 => hbad (.inr (.inl h62))
  refine ⟨hplen, by omega, ?_⟩
  rw [rxPacket_of_not_bad hbad, if_neg hlong] at h
  split at h
  · cases h
  · split at h
    · cases h
      rw [if_pos ‹_›]
    · cases h
      rw [if_neg ‹_›]

theorem Scratch.reset_bounded : Scratch.reset.Bounded := by
  constructor <;> decide

/-- 41_reassembly.md R163: a first packet adds at most 58 data bytes and a later one at most 62. -/
theorem Scratch.bounded_of_rxPacket {strict complete : Bool} {sc sc' : Scratch} {b : Bytes} (hsc : sc.Bounded)
    (h : rxPacket strict sc b = .accepted sc' complete) : sc'.Bounded := by
  obtain ⟨hplen, hk, rfl⟩ := scratch_of_rxPacket_accepted h
  obtain ⟨hfirst, -, hsum, hacc⟩ := hsc
  simp only [Config.payloadMax, Config.subHdr] at hsum hacc
  generalize plenOf (b.getD 0 0) = plen at hplen ⊢
  split
  case isTrue hf =>
    have hzero := hfirst.mp hf
    have hdata : ((b.drop 6).take (plen - 4)).length ≤ plen - 4 := List.length_take_le _ _
    constructor
    case first_iff => simp [Scratch.takeFirst]
    case k_le => exact hk
    case sum_le =>
      show sc.sum + plen ≤ 62 * (sc.k + 1)
      omega
    case acc_le =>
      show ((b.drop 6).take (plen - 4)).length ≤ 62 * (sc.k + 1) - 4
      omega
  case isFalse hf =>
    have hpos : sc.k ≠ 0 := fun hzero => hf (hfirst.mpr hzero)
    have hdata : ((b.drop 2).take plen).length ≤ plen := List.length_take_le _ _
    constructor
    case first_iff => simp [Scratch.takeNext, hf]
    case k_le => exact hk
    case sum_le =>
      show sc.sum + plen ≤ 62 * (sc.k + 1)
      omega
    case acc_le =>
      show (sc.acc ++ (b.drop 2).take plen).length ≤ 62 * (sc.k + 1) - 4
      rw [List.length_append]
      omega

theorem Scratch.bounded_of_feedStream {strict : Bool} {sc sc' : Scratch} {bs : List Bytes} (hsc : sc.Bounded)
    (h : feedStream strict sc bs = some sc') : sc'.Bounded := by
  induction bs generalizing sc with
  | nil => cases h
  | cons b bs ih =>
    rw [feedStream] at h
    cases hr : rxPacket strict sc b with
    | failed c =>
      rw [hr] at h
      cases h
    | accepted next complete =>
      have hnext := Scratch.bounded_of_rxPacket hsc hr
      rw [hr] at h
      cases complete with
      | false => exact ih hnext h
      | true =>
        simp only [if_true] at h
        split at h
        · cases h
          exact hnext
        · cases h

/-- R163, R164: a valid stream declares at most 988 bytes. -/
theorem length_le_of_feedStream {strict : Bool} {sc : Scratch} {bs : List Bytes}
    (hfeed : feedStream strict Scratch.reset bs = some sc) (hvalid : sc.valid = true) : sc.length.toNat ≤ 988 := by
  obtain ⟨-, hk, -, hacc⟩ := Scratch.bounded_of_feedStream Scratch.reset_bounded hfeed
  obtain ⟨hlength, -⟩ := sc.valid_iff.mp hvalid
  simp only [Config.payloadMax, Config.subHdr, Config.pktMax] at hk hacc
  omega

/-! ## The lines of a retry -/

section RequestLines

variable {arg eot : Bool} {s : State} {w : Word}

theorem exec_request_streamStart (hs : s.seq = .running w .streamStart) :
    exec (.request arg eot) s = .next s.startStream := by
  rw [exec_request_reassemble hs rfl, reassembleLine]

theorem exec_request_busy {r : BusyReply} (hs : s.seq = .running w (.busy r)) :
    exec (.request arg eot) s = .next (s.retryOrGiveUp r) := by
  show requestLine _ _ _ _ = _
  rw [requestLine, hs]

theorem exec_request_backoffCheck (hs : s.seq = .running w .backoffCheck) (hcancel : s.cancelPend = false) :
    exec (.request arg eot) s = .next { s with seq := .running w .backingOff } := by
  show requestLine _ _ _ _ = _
  rw [requestLine, hs]
  exact congrArg _ ((State.checkCancel_of_not hcancel _ _).trans (State.goto_of_running hs _))

theorem exec_request_backingOff (hs : s.seq = .running w .backingOff) :
    exec (.request arg eot) s =
      .next { s with trace := s.trace ++ [.wait Config.params.ticksPerUnit], seq := .running w .countRetry } := by
  show requestLine _ _ _ _ = _
  rw [requestLine, hs]
  exact congrArg _ (State.goto_of_running (s := s.wait (backoff Config.params)) hs _)

theorem exec_request_countRetry (hs : s.seq = .running w .countRetry) :
    exec (.request arg eot) s = .next s.countRetry := by
  show requestLine _ _ _ _ = _
  rw [requestLine, hs]

/-- R218, as a proposition. -/
theorem State.retriesExhausted_iff (s : State) :
    s.retriesExhausted = true ↔ s.retryLimit ≠ 0 ∧ s.retryLimit.toNat ≤ s.retryCount.toNat := by
  rw [State.retriesExhausted, Bool.and_eq_true, bne_iff_ne, decide_eq_true_iff]

/-- R218: below the limit, or without one, REQUEST goes on to the backoff. -/
theorem exec_request_busy_of_left {r : BusyReply} (hs : s.seq = .running w (.busy r))
    (h : s.retryLimit = 0 ∨ s.retryCount.toNat < s.retryLimit.toNat) :
    exec (.request arg eot) s = .next { s with seq := .running w .backoffCheck } := by
  have hleft : ¬ s.retriesExhausted = true := by
    rw [s.retriesExhausted_iff]
    rintro ⟨hne, hle⟩
    exact h.elim hne (by omega)
  rw [exec_request_busy hs, State.retryOrGiveUp, if_neg hleft, State.goto_of_running hs]

/-- R218: short of its greatest value RETRY_COUNT adds 1. -/
theorem exec_request_countRetry_of_lt (hs : s.seq = .running w .countRetry) (h : s.retryCount.toNat < 0xFFFFFFFF) :
    exec (.request arg eot) s = .next { s with retryCount := s.retryCount + 1, seq := .running w (.transmit 0) } := by
  have hne : s.retryCount ≠ BitVec.allOnes 32 := by
    intro heq
    rw [heq] at h
    exact absurd h (by decide)
  rw [exec_request_countRetry hs, State.countRetry, if_neg hne]
  exact congrArg _ (State.goto_of_running (w := w) (pos := .countRetry) (by exact hs) _)

end RequestLines

/-- R217, R218: a retry-requested reply under ARG = 1, with a retry left, leads through one backoff to the head of the
next transmission. -/
theorem RunsTo.retry {eot : Bool} {s : State} {w : Word} (hd : decode w = .ok (.request true eot))
    (hs : s.seq = .running w (.reassembled .retry)) (hcancel : s.cancelPend = false)
    (hlimit : s.retryLimit = 0 ∨ s.retryCount.toNat < s.retryLimit.toNat) (hcount : s.retryCount.toNat < 0xFFFFFFFF) :
    RunsTo s { s with
      trace := s.trace ++ [.wait Config.params.ticksPerUnit]
      retryCount := s.retryCount + 1
      seq := .running w (.transmit 0) } := by
  have decided : exec (.request true eot) s = .next { s with seq := .running w (.busy .retry) } := by
    rw [exec_request_reassembled hs, State.decideReply_retry, State.goto_of_running hs]
  exact RunsTo.head hs hd decided (RunsTo.head rfl hd (exec_request_busy_of_left rfl hlimit)
    (RunsTo.head rfl hd (exec_request_backoffCheck rfl hcancel) (RunsTo.head rfl hd (exec_request_backingOff rfl)
      (RunsTo.head rfl hd (exec_request_countRetry_of_lt rfl hcount) (RunsTo.refl _)))))

/-! ## One exchange -/

/-- The packets of the stored stream, PKT[0] to PKT[PKT_COUNT - 1] (10_state.md R34, R45). -/
def State.storedPackets (s : State) : List Bytes := (List.range s.pktCount.toNat).map s.packet

theorem State.storedPackets_storePkt (s : State) {ps : List Bytes} (hlength : ∀ q ∈ ps, q.length = 64)
    (h16 : ps.length ≤ 16) : (s.storePkt ps).storedPackets = ps := by
  have hcount := s.storePkt_pktCount_toNat h16
  refine List.ext_getElem (by simp only [State.storedPackets, List.length_map, List.length_range, hcount])
    fun j _ hj => ?_
  simp only [State.storedPackets, List.getElem_map, List.getElem_range]
  rw [s.packet_storePkt hlength h16 (by omega), List.getElem?_eq_getElem hj, Option.getD_some]

/-- The record of one transmission that the Transport answers with OK throughout, the Send answers `rest` left. -/
def State.streamSent (rest : List SendAnswer) (s : State) : State :=
  { s with sendAnswers := rest, trace := s.trace ++ sendEvents s.settle s.storedPackets }

/-- R212, R151: the stored stream is sent whole, and with ACK_EN = 0 the reply's stream is received next. -/
theorem RunsTo.exchange {arg eot : Bool} {s : State} {w : Word} {bs : List Bytes} {sc : Scratch}
    {sendRest : List SendAnswer} {recvRest : List RecvAnswer} (hd : decode w = .ok (.request arg eot))
    (hs : s.seq = .running w (.transmit 0)) (hcancel : s.cancelPend = false) (hack : s.ackEn = false)
    (hsend : s.sendAnswers = List.replicate s.pktCount.toNat .ok ++ sendRest)
    (hlength : ∀ b ∈ bs, b.length ≤ 64) (hrecv : s.recvAnswers = bs.map RecvAnswer.pkt ++ recvRest)
    (hfeed : feedStream s.strict Scratch.reset bs = some sc) :
    RunsTo s ((s.streamSent sendRest).streamReceived w sc bs recvRest) := by
  let sent : State := s.streamSent sendRest
  have transmission : RunsTo s { sent with seq := .running w .transmitted } := by
    have h := RunsTo.transmit (.inr ⟨arg, rfl⟩) hd _ hs hcancel hsend (Nat.zero_add _)
    rwa [← List.range_eq_range'] at h
  have noAck : exec (.request arg eot) { sent with seq := .running w .transmitted } =
      .next { sent with seq := .running w .streamStart } := by
    rw [exec_request_transmitted rfl]
    simp only [sent, State.streamSent, hack, Bool.false_eq_true, if_false]
  have received : RunsTo ({ sent with seq := .running w .streamStart } : State).startStream
      (sent.streamReceived w sc bs recvRest) :=
    RunsTo.stream (.inr ⟨arg, eot, rfl⟩) hd rfl rfl rfl rfl hcancel hlength hrecv hfeed
  exact transmission.trans (RunsTo.head rfl hd noAck (RunsTo.head rfl hd (exec_request_streamStart rfl) received))

/-- R219, R220: a message that is no stray device status is committed and ends REQUEST. -/
theorem RunsTo.exchangeMessage {arg eot : Bool} {s : State} {w : Word} {bs : List Bytes} {sc : Scratch}
    {sendRest : List SendAnswer} {recvRest : List RecvAnswer} (hd : decode w = .ok (.request arg eot))
    (hs : s.seq = .running w (.transmit 0)) (hcancel : s.cancelPend = false) (hack : s.ackEn = false)
    (hsend : s.sendAnswers = List.replicate s.pktCount.toNat .ok ++ sendRest)
    (hlength : ∀ b ∈ bs, b.length ≤ 64) (hrecv : s.recvAnswers = bs.map RecvAnswer.pkt ++ recvRest)
    (hfeed : feedStream s.strict Scratch.reset bs = some sc) (hvalid : sc.valid = true)
    (hdebug : sc.command ≠ Config.params.cmdDbgMessage) (hretry : sc.command ≠ Config.params.cmdIdRetry)
    (hstatus : sc.command = Config.params.cmdDeviceStatus → s.cmd0 = Config.params.cmdDeviceStatus) :
    RunsTo s ((s.streamSent sendRest).messageConsumed w sc bs recvRest) := by
  let received : State := (s.streamSent sendRest).streamReceived w sc bs recvRest
  let committed : State := (received.commit sc.command sc.length sc.acc).goto (.reassembled .msg)
  have dispatched : exec (.request arg eot) received = .next committed := by
    rw [exec_validate (w := w) (.inr ⟨arg, eot, rfl⟩) rfl, dispatchStream_message hvalid hdebug hretry]
    rfl
  have expected : ¬ (committed.rxCommand = Config.params.cmdDeviceStatus ∧
      committed.cmd0 ≠ Config.params.cmdDeviceStatus) := by
    rintro ⟨hcommand, hsent⟩
    have hcommitted : committed.rxCommand = sc.command := received.commit_rxCommand sc.command sc.length sc.acc
    exact hsent (hstatus (hcommitted.symm.trans hcommand))
  have ended : exec (.request arg eot) committed = .next (committed.finish .none .message) := by
    rw [exec_request_reassembled (w := w) (o := .msg) rfl, State.decideReply_message expected]
  exact (RunsTo.exchange hd hs hcancel hack hsend hlength hrecv hfeed).trans
    (RunsTo.head rfl hd dispatched (RunsTo.head rfl hd ended (RunsTo.refl _)))

/-! ## The retries -/

/-- The events of one retry: the stored stream, the retry-requested reply, and the backoff (R217). -/
def State.retryEvents (s : State) (bs : List Bytes) : List Event :=
  sendEvents s.settle s.storedPackets ++ recvEvents s.readTimeout bs ++ [.wait Config.params.ticksPerUnit]

/-- The state at the head of the transmission that follows the retry-requested replies `busy`, the answers `sendRest`
and `recvRest` left. What RX_STATE and the scratch hold there, the next stream overwrites. -/
def State.retried (w : Word) (busy : List (List Bytes)) (rx : RxState) (sc : Scratch) (sendRest : List SendAnswer)
    (recvRest : List RecvAnswer) (s : State) : State :=
  { s with
    rxState := rx
    scratch := sc
    sendAnswers := sendRest
    recvAnswers := recvRest
    retryCount := s.retryCount + BitVec.ofNat 32 busy.length
    trace := s.trace ++ busy.flatMap s.retryEvents
    seq := .running w (.transmit 0) }

/-- Without a retry nothing has changed. -/
theorem State.retried_nil {s : State} {w : Word} (hs : s.seq = .running w (.transmit 0)) :
    s.retried w [] s.rxState s.scratch s.sendAnswers s.recvAnswers = s := by
  simp [State.retried, ← hs]

/-- One retry and then those of `busy` are those of `bs :: busy`. -/
theorem State.retried_retried (s : State) (w : Word) (bs : List Bytes) (busy : List (List Bytes)) (rx rx' : RxState)
    (sc sc' : Scratch) (sendRest sendRest' : List SendAnswer) (recvRest recvRest' : List RecvAnswer) :
    (s.retried w [bs] rx sc sendRest recvRest).retried w busy rx' sc' sendRest' recvRest' =
      s.retried w (bs :: busy) rx' sc' sendRest' recvRest' := by
  have hcount : s.retryCount + BitVec.ofNat 32 [bs].length + BitVec.ofNat 32 busy.length =
      s.retryCount + BitVec.ofNat 32 (bs :: busy).length := by
    rw [BitVec.add_assoc, ← BitVec.ofNat_add, List.length_singleton, List.length_cons, Nat.add_comm]
  have htrace : s.trace ++ [bs].flatMap s.retryEvents ++ busy.flatMap s.retryEvents =
      s.trace ++ (bs :: busy).flatMap s.retryEvents := by
    rw [List.append_assoc, ← List.flatMap_append, List.singleton_append]
  unfold State.retried
  rw [← hcount, ← htrace]
  rfl

/-- R217, R218: one retry-requested reply, from one transmission to the head of the next. -/
theorem RunsTo.retryRound {eot : Bool} {s : State} {w : Word} {bs : List Bytes} {d : Bytes} {sendRest : List SendAnswer}
    {recvRest : List RecvAnswer} (hd : decode w = .ok (.request true eot)) (hs : s.seq = .running w (.transmit 0))
    (hcancel : s.cancelPend = false) (hack : s.ackEn = false)
    (hlimit : s.retryLimit = 0 ∨ s.retryCount.toNat < s.retryLimit.toNat) (hcount : s.retryCount.toNat < 0xFFFFFFFF)
    (hstream : IsStream s.strict bs Config.params.cmdIdRetry d)
    (hsend : s.sendAnswers = List.replicate s.pktCount.toNat .ok ++ sendRest)
    (hrecv : s.recvAnswers = bs.map RecvAnswer.pkt ++ recvRest) :
    ∃ rx sc, RunsTo s (s.retried w [bs] rx sc sendRest recvRest) := by
  obtain ⟨hlength, sc, hfeed, hvalid, hcommand, -⟩ := hstream
  let received : State := (s.streamSent sendRest).streamReceived w sc bs recvRest
  have dispatched : exec (.request true eot) received =
      .next { received with seq := .running w (.reassembled .retry) } := by
    rw [exec_validate (w := w) (.inr ⟨true, eot, rfl⟩) rfl, dispatchStream_retry hvalid hcommand]
    rfl
  have backedOff := RunsTo.retry (s := { received with seq := .running w (.reassembled .retry) }) hd rfl hcancel hlimit
    hcount
  have hstate : s.retried w [bs] .complete sc sendRest recvRest = { received with
      trace := received.trace ++ [.wait Config.params.ticksPerUnit]
      retryCount := received.retryCount + 1
      seq := .running w (.transmit 0) } := by
    simp [State.retried, State.retryEvents, received, State.streamReceived, State.streamSent]
  refine ⟨.complete, sc, ?_⟩
  rw [hstate]
  exact (RunsTo.exchange hd hs hcancel hack hsend hlength hrecv hfeed).trans (RunsTo.head rfl hd dispatched backedOff)

/-- R224's retries, for any number of them. -/
theorem RunsTo.retries {eot : Bool} {w : Word} {sendRest : List SendAnswer} {recvRest : List RecvAnswer}
    (hd : decode w = .ok (.request true eot)) (busy : List (List Bytes)) {s : State}
    (hs : s.seq = .running w (.transmit 0)) (hcancel : s.cancelPend = false) (hack : s.ackEn = false)
    (hlimit : s.retryLimit = 0 ∨ s.retryCount.toNat + busy.length ≤ s.retryLimit.toNat)
    (hcount : s.retryCount.toNat + busy.length ≤ 0xFFFFFFFF)
    (hbusy : ∀ bs ∈ busy, ∃ d, IsStream s.strict bs Config.params.cmdIdRetry d)
    (hsend : s.sendAnswers = List.replicate (busy.length * s.pktCount.toNat) .ok ++ sendRest)
    (hrecv : s.recvAnswers = busy.flatten.map RecvAnswer.pkt ++ recvRest) :
    ∃ rx sc, RunsTo s (s.retried w busy rx sc sendRest recvRest) := by
  induction busy generalizing s with
  | nil =>
    have hsendRest : s.sendAnswers = sendRest := by simpa using hsend
    have hrecvRest : s.recvAnswers = recvRest := by simpa using hrecv
    refine ⟨s.rxState, s.scratch, ?_⟩
    rw [← hsendRest, ← hrecvRest, State.retried_nil hs]
    exact RunsTo.refl s
  | cons bs busy ih =>
    obtain ⟨⟨d, hstream⟩, hrest⟩ := List.forall_mem_cons.mp hbusy
    rw [List.length_cons] at hlimit hcount hsend
    rw [Nat.succ_mul, Nat.add_comm, List.replicate_add, List.append_assoc] at hsend
    rw [List.flatten_cons, List.map_append, List.append_assoc] at hrecv
    obtain ⟨rx, sc, round⟩ := RunsTo.retryRound hd hs hcancel hack (hlimit.imp_right (by omega)) (by omega) hstream
      hsend hrecv
    have hcounted : (s.retryCount + BitVec.ofNat 32 [bs].length).toNat = s.retryCount.toNat + 1 := by
      simp only [List.length_singleton]
      bv_omega
    obtain ⟨rx', sc', rest⟩ := ih
      (s := s.retried w [bs] rx sc (List.replicate (busy.length * s.pktCount.toNat) .ok ++ sendRest)
        (busy.flatten.map RecvAnswer.pkt ++ recvRest)) rfl hcancel hack
      (hlimit.imp_right fun h => by simp only [State.retried, hcounted]; omega)
      (by simp only [State.retried, hcounted]; omega) hrest rfl rfl
    rw [State.retried_retried] at rest
    exact ⟨rx', sc', round.trans rest⟩

/-! ## What the replies leave alone -/

/-- The parts of the block that REQUEST, once its stream is stored, neither sends nor receives into. -/
structure KeptByReplies (s t : State) : Prop where
  hostSide : SameHostSide s t
  flip : t.flip = s.flip
  connected : t.connected = s.connected
  dbgCount : t.dbgCount = s.dbgCount
  /-- Every byte but those of RX_DATA. -/
  memory : SameMemoryOutside 0x800 988 s t

theorem SameHostSide.trans {s t u : State} (h₁ : SameHostSide s t) (h₂ : SameHostSide t u) : SameHostSide s u where
  ackEn := h₂.ackEn.trans h₁.ackEn
  strict := h₂.strict.trans h₁.strict
  ieDone := h₂.ieDone.trans h₁.ieDone
  ieFatal := h₂.ieFatal.trans h₁.ieFatal
  txHdr := h₂.txHdr.trans h₁.txHdr
  retryLimit := h₂.retryLimit.trans h₁.retryLimit
  readTimeout := h₂.readTimeout.trans h₁.readTimeout
  hsTimeout := h₂.hsTimeout.trans h₁.hsTimeout
  settle := h₂.settle.trans h₁.settle
  ovr := h₂.ovr.trans h₁.ovr
  turns := h₂.turns.trans h₁.turns
  busReads := h₂.busReads.trans h₁.busReads

theorem KeptByReplies.trans {s t u : State} (h₁ : KeptByReplies s t) (h₂ : KeptByReplies t u) : KeptByReplies s u where
  hostSide := h₁.hostSide.trans h₂.hostSide
  flip := h₂.flip.trans h₁.flip
  connected := h₂.connected.trans h₁.connected
  dbgCount := h₂.dbgCount.trans h₁.dbgCount
  memory a ha := (h₂.memory a ha).trans (h₁.memory a ha)

theorem State.retried_keeps (s : State) (w : Word) (busy : List (List Bytes)) (rx : RxState) (sc : Scratch)
    (sendRest : List SendAnswer) (recvRest : List RecvAnswer) :
    KeptByReplies s (s.retried w busy rx sc sendRest recvRest) :=
  ⟨⟨rfl, rfl, rfl, rfl, rfl, rfl, rfl, rfl, rfl, rfl, rfl, rfl⟩, rfl, rfl, rfl, fun _ _ => rfl⟩

theorem State.streamSent_keeps (s : State) (sendRest : List SendAnswer) : KeptByReplies s (s.streamSent sendRest) :=
  ⟨⟨rfl, rfl, rfl, rfl, rfl, rfl, rfl, rfl, rfl, rfl, rfl, rfl⟩, rfl, rfl, rfl, fun _ _ => rfl⟩

theorem State.messageConsumed_keeps (s : State) (w : Word) (sc : Scratch) (bs : List Bytes) (rest : List RecvAnswer) :
    KeptByReplies s (s.messageConsumed w sc bs rest) :=
  ⟨s.messageConsumed_hostSide w sc bs rest, rfl, rfl, rfl, fun a ha => by
    rw [State.read_messageConsumed, if_neg (by omega)]⟩

/-! ## The whole command -/

/-- From the head of a transmission, any number of retry-requested replies and then a message (R217 to R220). -/
theorem RunsTo.replies {eot : Bool} {s : State} {w : Word} {busy : List (List Bytes)} {reply : List Bytes}
    {cmd : Half} {data : Bytes} {sendRest : List SendAnswer} {recvRest : List RecvAnswer}
    (hd : decode w = .ok (.request true eot)) (hs : s.seq = .running w (.transmit 0)) (hcancel : s.cancelPend = false)
    (hack : s.ackEn = false) (hlimit : s.retryLimit = 0 ∨ s.retryCount.toNat + busy.length ≤ s.retryLimit.toNat)
    (hcount : s.retryCount.toNat + busy.length ≤ 0xFFFFFFFF)
    (hbusy : ∀ bs ∈ busy, ∃ d, IsStream s.strict bs Config.params.cmdIdRetry d)
    (hreply : IsStream s.strict reply cmd data) (hdebug : cmd ≠ Config.params.cmdDbgMessage)
    (hretry : cmd ≠ Config.params.cmdIdRetry)
    (hstatus : cmd = Config.params.cmdDeviceStatus → s.cmd0 = Config.params.cmdDeviceStatus)
    (hsend : s.sendAnswers = List.replicate ((busy.length + 1) * s.pktCount.toNat) .ok ++ sendRest)
    (hrecv : s.recvAnswers = (busy.flatten ++ reply).map RecvAnswer.pkt ++ recvRest) :
    ∃ t, RunsTo s t ∧ Ended w .none .message t ∧ KeptByReplies s t ∧ t.rxCommand = cmd ∧ t.rxPayload = data ∧
      t.retryCount = s.retryCount + BitVec.ofNat 32 busy.length ∧ t.sendAnswers = sendRest ∧ t.recvAnswers = recvRest ∧
      t.trace = s.trace ++ busy.flatMap s.retryEvents ++
        (sendEvents s.settle s.storedPackets ++ recvEvents s.readTimeout reply) := by
  obtain ⟨hlength, sc, hfeed, hvalid, rfl, rfl⟩ := hreply
  rw [Nat.succ_mul, List.replicate_add, List.append_assoc] at hsend
  rw [List.map_append, List.append_assoc] at hrecv
  obtain ⟨rx, sc', retries⟩ := RunsTo.retries hd busy hs hcancel hack hlimit hcount hbusy hsend hrecv
  have answered := RunsTo.exchangeMessage
    (s := s.retried w busy rx sc' (List.replicate s.pktCount.toNat .ok ++ sendRest)
      (reply.map RecvAnswer.pkt ++ recvRest))
    hd rfl hcancel hack rfl hlength rfl hfeed hvalid hdebug hretry hstatus
  exact ⟨_, retries.trans answered, State.messageConsumed_ended ..,
    (State.retried_keeps ..).trans ((State.streamSent_keeps ..).trans (State.messageConsumed_keeps ..)),
    State.messageConsumed_rxCommand .., State.messageConsumed_rxPayload _ _ _ _ hvalid
    (length_le_of_feedStream hfeed hvalid), rfl, rfl, rfl, List.append_assoc ..⟩

/-- The state at the head of REQUEST's first transmission, the stream `ps` stored and FLIP advanced (R211). -/
def State.requestReady (w : Word) (ps : List Bytes) (s : State) : State :=
  { s.streamStored w s.txCommand ps with flip := !s.flip, retryCount := 0, seq := .running w (.transmit 0) }

theorem RunsTo.requestReady {arg eot : Bool} {s : State} {w : Word} {ps : List Bytes}
    (hd : decode w = .ok (.request arg eot)) (hs : s.seq = .running w .start) (hconnected : s.connected = true)
    (hps : encodeStream s.txCommand s.txLength s.txPayload s.flip s.ackEn = some ps) :
    RunsTo s (s.requestReady w ps) := by
  have start : exec (.request arg eot) s = .next (s.streamStored w s.txCommand ps) := by
    rw [exec_request_start hs, State.startSending_of_stream hs hconnected hps]
  exact RunsTo.head hs hd start (RunsTo.head rfl hd (exec_request_advance rfl)
    (RunsTo.head rfl hd (exec_request_clearRetries rfl) (RunsTo.refl _)))

theorem State.requestReady_hostSide (s : State) (w : Word) (ps : List Bytes) :
    SameHostSide s (s.requestReady w ps) :=
  ⟨rfl, rfl, rfl, rfl, rfl, rfl, rfl, rfl, rfl, rfl, rfl, rfl⟩

/-- Settles O42: the command is the run to its first transmission and the replies to it, which leave alone what that run
has stored. -/
theorem requestRetriesUntilTheReply : Obligations.RequestRetriesUntilTheReply := by
  intro eot s w busy reply cmd data sendRest recvRest hd hs hconnected hcancel hack hfits hlimit hcount hbusy hreply
    hdebug hretry hstatus hsend hrecv
  obtain ⟨ps, hps⟩ := State.exists_encodeStream hfits
  obtain ⟨hpackets, -, h16, h64⟩ := encodeStream_length hps
  have hready : (s.requestReady w ps).pktCount.toNat = ps.length := s.storePkt_pktCount_toNat h16
  have hstored : (s.requestReady w ps).storedPackets = ps := s.storedPackets_storePkt h64 h16
  have hzero : (s.requestReady w ps).retryCount.toNat = 0 := rfl
  rw [← hpackets, ← hready] at hsend
  obtain ⟨t, replies, ended, kept, hcommand, hpayload, hretries, hsendRest, hrecvRest, htrace⟩ :=
    RunsTo.replies (s := s.requestReady w ps) hd rfl hcancel hack
      (hlimit.imp_right fun h => by rw [hzero, Nat.zero_add]; exact h) (by rw [hzero, Nat.zero_add]; exact hcount)
      hbusy hreply hdebug hretry hstatus hsend hrecv
  have memory (a : Nat) (ha : a < 0x800 ∨ 0xBDC ≤ a) : Memory.read t.mem a = Memory.read (s.storePkt ps).mem a :=
    kept.memory a ha
  refine ⟨ps, t, hps, (RunsTo.requestReady hd hs hconnected hps).trans replies, ended, ?trace, ?count, kept.flip,
    hcommand, hpayload, ?packets, ?frame, kept.connected.trans hconnected,
    (s.requestReady_hostSide w ps).trans kept.hostSide, kept.dbgCount, hsendRest, hrecvRest⟩
  case trace =>
    unfold State.retryEvents at htrace
    rw [hstored] at htrace
    exact htrace
  case count =>
    rw [hretries, BitVec.toNat_add, hzero, BitVec.toNat_ofNat]
    omega
  case packets =>
    intro j hj
    rw [State.packet_congr (fun a h _ => memory a (by omega)) hj]
    exact s.packet_storePkt h64 h16 hj
  case frame =>
    intro a ha
    rw [inTx_iff, inRef_iff] at ha
    rw [memory a (by omega), s.storePkt_sameMemoryOutside ps a (by omega)]

end Sys2Proof.Machine

/-! SUPPORT. The lines of CONNECT and of DISCONNECT (44_handshake.md R240, R260): the lines of CONNECT that store or
wait, its cancel points and its Transport calls, the lines of DISCONNECT, and the obligations about both commands'
lines. -/

namespace Sys2Proof.Machine

/-- The command with the word `w` goes on at `pos`. -/
def State.movedTo (w : Word) (pos : Pos) (s : State) : State := { s with seq := .running w pos }

@[simp] theorem State.movedTo_mem (w : Word) (pos : Pos) (s : State) : (s.movedTo w pos).mem = s.mem := rfl
@[simp] theorem State.movedTo_cancelPend (w : Word) (pos : Pos) (s : State) :
    (s.movedTo w pos).cancelPend = s.cancelPend := rfl

/-- In the running command that is `goto`. -/
theorem State.goto_eq_movedTo {s : State} {w : Word} {pos : Pos} (hs : s.seq = .running w pos) (next : Pos) :
    s.goto next = s.movedTo w next :=
  State.goto_of_running hs next

/-- A state in which a command runs, as a state moved to that command's position. -/
theorem State.exists_movedTo {s : State} {w : Word} {pos : Pos} (hs : s.seq = .running w pos) :
    ∃ s' : State, s = s'.movedTo w pos :=
  ⟨s, by rw [State.movedTo, ← hs]⟩

/-! ## CONNECT's first line and its end -/

theorem State.startConnect_of_connected {s : State} (h : s.hsState = .connected) :
    s.startConnect = s.finish .alreadyConnected .none := by
  rw [State.startConnect, if_pos h]

theorem State.startConnect_of_too_large {s : State} (hsession : s.hsState ≠ .connected)
    (hlong : 58 < s.txLength.toNat) : s.startConnect = s.finish .probeTooLarge .none := by
  rw [State.startConnect, if_neg hsession, probeMax, if_pos hlong]

theorem State.startConnect_of_fits {s : State} {w : Word} {pos : Pos} (hs : s.seq = .running w pos)
    (hsession : s.hsState ≠ .connected) (hfits : s.txLength.toNat ≤ 58) :
    s.startConnect = { s with hsAttempts := 0, seq := .running w .enterHandshake } := by
  rw [State.startConnect, if_neg hsession, probeMax, if_neg (by omega)]
  exact State.goto_eq_movedTo (s := { s with hsAttempts := 0 }) hs _

section ConnectLines

variable {s : State} {w : Word}

theorem exec_connect_start (hs : s.seq = .running w .start) : exec .connect s = .next s.startConnect := by
  show connectLine _ _ = _
  rw [connectLine, hs]

theorem exec_connect_finishing {err : ErrCode} {outcome : Reply} (hs : s.seq = .running w (.finishing err outcome)) :
    exec .connect s = .next (s.finish err outcome) := by
  show connectLine _ _ = _
  rw [connectLine, hs]

/-! ## The lines of CONNECT that store or wait -/

/-- At the first position CONNECT stores or waits as the function says, whatever the Transport and the host do, and goes
on at the second. -/
inductive ConnectStores : Pos → (State → State) → Pos → Prop
  | enterHandshake : ConnectStores .enterHandshake (State.setHs .disconnected) .markerCheck
  | markerCount : ConnectStores .markerCount (fun s => { s with hsAttempts := s.hsAttempts + 1 }) .markerSending
  | markerBackingOff : ConnectStores .markerBackingOff (State.wait Config.params.ticksPerUnit) .markerCheck
  | markerSettling : ConnectStores .markerSettling (fun s => s.wait s.settle) .flipReset
  | flipReset : ConnectStores .flipReset (fun s => { s with flip := false }) .enterFlipBitReset
  | enterFlipBitReset : ConnectStores .enterFlipBitReset (State.setHs .flipBitReset) .probeStore
  | probeRef : ConnectStores .probeRef State.storeReference .probeAdvance
  | probeSettling : ConnectStores .probeSettling (fun s => s.wait s.settle) .enterProbeSent
  | enterProbeSent : ConnectStores .enterProbeSent (State.setHs .probeSent) .enterAuxAck
  | enterAuxAck : ConnectStores .enterAuxAck (State.setHs .auxAckAwaited) .auxCheck
  | clearAckFlag : ConnectStores .clearAckFlag State.clearReferenceAck .enterMainAck
  | enterMainAck : ConnectStores .enterMainAck (State.setHs .mainAckAwaited) .mainCheck
  | enterConnected :
      ConnectStores .enterConnected (fun s => { s with connected := true, hsState := .connected })
        (.finishing .none .none)

theorem exec_connect_stores {pos next : Pos} {f : State → State} (h : ConnectStores pos f next)
    (hs : s.seq = .running w pos) : exec .connect s = .next ((f s).movedTo w next) := by
  obtain ⟨s, rfl⟩ := State.exists_movedTo hs
  cases h
  all_goals rfl

/-- R245: the flip bit advances with the probe exactly when P_PROBE_ADVANCES says so. -/
theorem exec_connect_probeAdvance (hs : s.seq = .running w .probeAdvance) :
    exec .connect s =
      .next (({ s with flip := s.flip ^^ Config.params.probeAdvances } : State).movedTo w .probeCheck) := by
  have advanced : (if Config.params.probeAdvances then s.advanceFlip else s) =
      { s with flip := s.flip ^^ Config.params.probeAdvances } := by
    cases Config.params.probeAdvances <;> simp [State.advanceFlip]
  show connectLine _ _ = _
  rw [connectLine, hs]
  exact congrArg _ ((congrArg _ advanced).trans (State.goto_eq_movedTo (by exact hs) _))

theorem exec_connect_probeStore (hs : s.seq = .running w .probeStore) : exec .connect s = .next s.storeProbe := by
  show connectLine _ _ = _
  rw [connectLine, hs]

/-! ## The cancel points of CONNECT -/

/-- A cancel point of CONNECT, and where CONNECT goes on without a cancellation. -/
inductive ConnectChecks : Pos → Pos → Prop
  | marker : ConnectChecks .markerCheck .markerCount
  | markerBackoff : ConnectChecks .markerBackoffCheck .markerBackingOff
  | markerSettle : ConnectChecks .markerSettleCheck .markerSettling
  | probe : ConnectChecks .probeCheck .probeSending
  | probeSettle : ConnectChecks .probeSettleCheck .probeSettling
  | aux : ConnectChecks .auxCheck .auxReceiving
  | main : ConnectChecks .mainCheck .mainReceiving

theorem exec_connect_checks {pos next : Pos} (h : ConnectChecks pos next) (hs : s.seq = .running w pos)
    (hcancel : s.cancelPend = false) : exec .connect s = .next (s.movedTo w next) := by
  show connectLine _ _ = _
  rw [connectLine, hs]
  cases h
  all_goals exact congrArg _ ((State.checkCancel_of_not hcancel _ _).trans (State.goto_eq_movedTo hs _))

/-! ## The Sends of CONNECT -/

theorem exec_connect_marker_ok (hs : s.seq = .running w .markerSending) (ha : s.sendAnswer = .ok) :
    exec .connect s = .next ((s.sent marker).movedTo w .markerSettleCheck) := by
  show connectLine _ _ = _
  rw [connectLine, hs]
  simp only [State.sendMarker, ha]
  exact congrArg _ (State.goto_eq_movedTo (s := s.sent marker) hs _)

/-- R243: a failed marker short of the tenth. -/
theorem exec_connect_marker_err (hs : s.seq = .running w .markerSending) (ha : s.sendAnswer = .err)
    (hleft : s.hsAttempts.toNat ≠ 10) :
    exec .connect s = .next ((s.sent marker).movedTo w .markerBackoffCheck) := by
  show connectLine _ _ = _
  rw [connectLine, hs]
  simp only [State.sendMarker, ha, Config.markerAttempts, if_neg hleft]
  exact congrArg _ (State.goto_eq_movedTo (s := s.sent marker) hs _)

theorem exec_connect_probe_ok (hs : s.seq = .running w .probeSending) (ha : s.sendAnswer = .ok) :
    exec .connect s = .next ((s.sent (s.packet 0)).movedTo w .probeSettleCheck) := by
  show connectLine _ _ = _
  rw [connectLine, hs]
  simp only [State.sendProbe, ha]
  exact congrArg _ (State.goto_eq_movedTo (s := s.sent (s.packet 0)) hs _)

theorem exec_connect_probe_err (hs : s.seq = .running w .probeSending) (ha : s.sendAnswer = .err) :
    exec .connect s = .next (((s.sent (s.packet 0)).setHs .failed).movedTo w (.finishing .handshakeAborted .none)) := by
  show connectLine _ _ = _
  rw [connectLine, hs]
  simp only [State.sendProbe, ha]
  exact congrArg _ (State.goto_eq_movedTo (s := (s.sent (s.packet 0)).setHs .failed) hs _)

/-! ## The echo waits of CONNECT -/

/-- AwaitEcho's CheckCancel, in the wait for the auxiliary or for the main echo. -/
def echoCheck (aux : Bool) : Pos := if aux then .auxCheck else .mainCheck

/-- AwaitEcho's Recv. -/
def echoReceiving (aux : Bool) : Pos := if aux then .auxReceiving else .mainReceiving

/-- The line after the wait. -/
def echoMatched (aux : Bool) : Pos := if aux then .clearAckFlag else .enterConnected

theorem ConnectChecks.echo (aux : Bool) : ConnectChecks (echoCheck aux) (echoReceiving aux) := by
  cases aux with
  | true => exact .aux
  | false => exact .main

theorem exec_connect_echoReceiving {aux : Bool} (hs : s.seq = .running w (echoReceiving aux)) :
    exec .connect s = .next (s.awaitEcho (echoCheck aux) (echoMatched aux)) := by
  show connectLine _ _ = _
  rw [connectLine, hs]
  cases aux <;> rfl

theorem exec_connect_echo_matched {aux : Bool} (hs : s.seq = .running w (echoReceiving aux))
    (ha : s.recvAnswer = .pkt s.reference) :
    exec .connect s = .next ((s.received s.hsTimeout).movedTo w (echoMatched aux)) := by
  rw [exec_connect_echoReceiving hs]
  simp only [State.awaitEcho, ha, if_true]
  exact congrArg _ (State.goto_eq_movedTo (s := s.received s.hsTimeout) hs _)

/-- R250, R254: whatever is neither the echo nor an I/O error is drained. -/
theorem exec_connect_echo_drained {aux : Bool} (hs : s.seq = .running w (echoReceiving aux))
    (hio : s.recvAnswer ≠ .ioerr) (hother : s.recvAnswer ≠ .pkt s.reference) :
    exec .connect s = .next ((s.received s.hsTimeout).movedTo w (echoCheck aux)) := by
  have again := State.goto_eq_movedTo (s := s.received s.hsTimeout) hs (echoCheck aux)
  rw [exec_connect_echoReceiving hs, State.awaitEcho]
  cases ha : s.recvAnswer with
  | pkt b =>
    have hne : b ≠ s.reference := fun h => hother (by rw [ha, h])
    simp only [if_neg hne]
    exact congrArg _ again
  | timeout => exact congrArg _ again
  | ioerr => exact absurd ha hio

theorem exec_connect_echo_aborted {aux : Bool} (hs : s.seq = .running w (echoReceiving aux))
    (ha : s.recvAnswer = .ioerr) :
    exec .connect s =
      .next (((s.received s.hsTimeout).setHs .failed).movedTo w (.finishing .handshakeAborted .none)) := by
  rw [exec_connect_echoReceiving hs]
  simp only [State.awaitEcho, ha]
  exact congrArg _ (State.goto_eq_movedTo (s := (s.received s.hsTimeout).setHs .failed) hs _)

end ConnectLines

/-! ## The reference packet -/

/-- R250, byte by byte. -/
theorem State.eq_reference_iff (s : State) (b : Bytes) :
    b = s.reference ↔ b.length = 64 ∧ ∀ j, j < 64 → b.getD j 0 = Memory.read s.mem (0x1400 + j) := by
  have hlength : s.reference.length = 64 := Memory.length_readRange ..
  have hbyte (j : Nat) (hj : j < s.reference.length) : s.reference[j] = Memory.read s.mem (0x1400 + j) :=
    Memory.getElem_readRange _ _ _ _ hj
  constructor
  · rintro rfl
    refine ⟨hlength, fun j hj => ?_⟩
    rw [← List.getElem_eq_getD (h := by omega), hbyte]
  · rintro ⟨hb, hbytes⟩
    refine List.ext_getElem (by omega) fun j hj hj' => ?_
    rw [hbyte, ← hbytes j (by omega), ← List.getElem_eq_getD (h := hj)]

/-- `b & 0xBF`, bit by bit. -/
theorem getLsbD_clearAck (b : Byte) {j : Nat} (hj : j < 8) :
    (clearAck b).getLsbD j = if j = 6 then false else b.getLsbD j := by
  have hmask : (0xBF#8).getLsbD j = !decide (j = 6) := by
    revert j
    decide
  rw [clearAck, BitVec.getLsbD_and, hmask]
  split <;> simp [*]

/-- Every byte after the ack-request bit of REF is cleared. -/
theorem State.read_clearReferenceAck (s : State) (a : Nat) :
    Memory.read s.clearReferenceAck.mem a =
      if a = 0x1400 then clearAck (Memory.read s.mem 0x1400) else Memory.read s.mem a := by
  have hrange : (refBase ≤ a ∧ a < refBase + [clearAck (Memory.read s.mem refBase)].length) ↔ a = 0x1400 := by
    simp only [refBase, List.length_singleton]
    omega
  rw [State.clearReferenceAck_mem, Memory.read_writeRange]
  by_cases ha : a = 0x1400
  · rw [if_pos (hrange.mpr ha), if_pos ha, ha]
    rfl
  · rw [if_neg (mt hrange.mp ha), if_neg ha]

/-! ## The lines of DISCONNECT -/

section DisconnectLines

variable {s : State} {w : Word}

theorem exec_disconnect_start_of_not_connected (hs : s.seq = .running w .start) (h : s.connected = false) :
    exec .disconnect s = .next (s.finish .notConnected .none) := by
  show execDisconnect _ = _
  rw [execDisconnect, hs]
  exact congrArg _ (if_neg (by rw [h]; exact Bool.false_ne_true))

theorem exec_disconnect_start (hs : s.seq = .running w .start) (h : s.connected = true) :
    exec .disconnect s = .next ((s.record .tDispose).movedTo w .transportReset) := by
  show execDisconnect _ = _
  rw [execDisconnect, hs]
  exact congrArg _ ((if_pos h).trans (State.goto_eq_movedTo (s := s.record .tDispose) hs _))

theorem exec_disconnect_transportReset (hs : s.seq = .running w .transportReset) :
    exec .disconnect s = .next ((s.record .tReset).movedTo w .leaveConnected) := by
  show execDisconnect _ = _
  rw [execDisconnect, hs]
  exact congrArg _ (State.goto_eq_movedTo (s := s.record .tReset) hs _)

theorem exec_disconnect_leaveConnected (hs : s.seq = .running w .leaveConnected) :
    exec .disconnect s =
      .next (({ s with connected := false, hsState := .disconnected } : State).movedTo w .clearRxState) := by
  show execDisconnect _ = _
  rw [execDisconnect, hs]
  rfl

theorem exec_disconnect_clearRxState (hs : s.seq = .running w .clearRxState) :
    exec .disconnect s = .next ((s.setRx .awaitFirstPacket).movedTo w (.finishing .none .none)) := by
  show execDisconnect _ = _
  rw [execDisconnect, hs]
  exact congrArg _ (State.goto_eq_movedTo (s := s.setRx .awaitFirstPacket) hs _)

theorem exec_disconnect_finishing {err : ErrCode} {outcome : Reply} (hs : s.seq = .running w (.finishing err outcome)) :
    exec .disconnect s =
      .next (s.finish err outcome) := by
  show execDisconnect _ = _
  rw [execDisconnect, hs]

end DisconnectLines

/-! ## The obligations -/

/-- Settles O43: by the two conditions the first line looks at. -/
theorem connectChecksBeforeAnyTransportCall : Obligations.ConnectChecksBeforeAnyTransportCall := by
  intro s w hs
  rw [exec_connect_start hs]
  exact ⟨fun hsession => by rw [State.startConnect_of_connected hsession],
    fun hsession hlong => by rw [State.startConnect_of_too_large hsession hlong],
    fun hsession hfits => by rw [State.startConnect_of_fits hs hsession hfits]⟩

/-- Settles O46: in an echo wait by the Transport's answer and whether it is the reference, and for the probe by the
answer to its Send; a failed call leaves the finish pending. -/
theorem echoMustEqualTheReference : Obligations.EchoMustEqualTheReference := by
  intro s w
  refine ⟨fun aux hs => ?echo, fun hs => ?probe⟩
  case echo =>
    refine ⟨fun b hb => ⟨fun hequal => ?matched, fun hdiffer => ?other⟩, fun htimeout => ?timeout, fun hio => ?aborted⟩
    case matched =>
      rw [← s.eq_reference_iff b] at hequal
      exact exec_connect_echo_matched hs (hb.trans (congrArg _ hequal))
    case other =>
      have hne : b ≠ s.reference := by
        rw [ne_eq, s.eq_reference_iff b]
        rintro ⟨hlength, hbytes⟩
        obtain hlength' | ⟨j, hj, hbyte⟩ := hdiffer
        exacts [hlength' hlength, hbyte (hbytes j hj)]
      exact exec_connect_echo_drained hs (by rw [hb]; nofun) (by rw [hb]; exact fun h => hne (RecvAnswer.pkt.inj h))
    case timeout => exact exec_connect_echo_drained hs (by rw [htimeout]; nofun) (by rw [htimeout]; nofun)
    case aborted => exact ⟨exec_connect_echo_aborted hs hio, exec_connect_finishing (w := w) rfl⟩
  case probe =>
    exact ⟨exec_connect_probe_ok hs, fun herr => ⟨exec_connect_probe_err hs herr, exec_connect_finishing (w := w) rfl⟩⟩

/-- Settles O47: by the one byte that the line stores. -/
theorem auxiliaryEchoClearsTheAckFlagOfRef : Obligations.AuxiliaryEchoClearsTheAckFlagOfRef := by
  intro s w hs
  refine ⟨_, exec_connect_stores .clearAckFlag hs, fun j hj => ?bits, fun a ha => ?frame, rfl⟩
  case bits => rw [State.movedTo_mem, s.read_clearReferenceAck, if_pos rfl, getLsbD_clearAck _ hj]
  case frame => rw [State.movedTo_mem, s.read_clearReferenceAck, if_neg (by omega)]

/-- Settles O49: without a session by the first line, with one by the five lines of the run. -/
theorem disconnectReleasesTheSession : Obligations.DisconnectReleasesTheSession := by
  intro s w hs
  refine ⟨exec_disconnect_start_of_not_connected hs, fun hconnected => ?session⟩
  refine ⟨exec_disconnect_start hs hconnected, fun hd => ?run⟩
  obtain ⟨-, hop⟩ := fields_of_decode hd
  have hlast : opField w = 0x08 := hop
  rw [← hlast, List.append_cons s.trace .tDispose [.tReset]]
  refine RunsTo.head hs hd (exec_disconnect_start hs hconnected)
    (RunsTo.head rfl hd (exec_disconnect_transportReset rfl)
      (RunsTo.head rfl hd (exec_disconnect_leaveConnected rfl)
        (RunsTo.head rfl hd (exec_disconnect_clearRxState rfl)
          (RunsTo.head rfl hd (exec_disconnect_finishing rfl) ?_))))
  cases s
  exact RunsTo.refl _

end Sys2Proof.Machine

/-! SUPPORT. CONNECT over a Transport that lets it through (44_handshake.md R256): its run as the failed markers, the
marker that is taken, the probe, and the two echo waits, with the state after each, and the obligation about the
whole. -/

namespace Sys2Proof.Machine

/-! ## The reference packet and the packet buffer -/

theorem State.reference_storeReference (s : State) : s.storeReference.reference = s.packet 0 := by
  have hlength : (s.packet 0).length = Config.mtu := Memory.length_readRange ..
  rw [State.reference, State.storeReference_mem, ← hlength, Memory.readRange_writeRange_self]

/-- R251 on the whole of REF. -/
theorem State.reference_clearReferenceAck (s : State) :
    s.clearReferenceAck.reference = clearAck (s.reference.getD 0 0) :: s.reference.tail := by
  obtain ⟨hlength, hbyte⟩ := (s.eq_reference_iff _).mp rfl
  refine ((s.clearReferenceAck.eq_reference_iff _).mpr ⟨?length, fun j hj => ?byte⟩).symm
  case length => rw [List.length_cons, List.length_tail, hlength]
  case byte =>
    rw [s.read_clearReferenceAck]
    cases j with
    | zero => rw [List.getD_cons_zero, hbyte 0 hj, if_pos rfl]
    | succ j =>
      rw [List.getD_cons_succ, if_neg (by omega), ← hbyte (j + 1) hj]
      simp [List.getD_eq_getElem?_getD]

/-- `REF <- P[0]` leaves every byte below REF. -/
theorem State.read_storeReference_of_lt (s : State) {a : Nat} (ha : a < 0x1400) :
    Memory.read s.storeReference.mem a = Memory.read s.mem a := by
  rw [State.storeReference_mem, Memory.read_writeRange, if_neg (by simp only [refBase]; omega)]

/-! ## From one position of CONNECT to another -/

theorem RunsTo.of_eq {s t : State} (h : s = t) : RunsTo s t := h ▸ RunsTo.refl s

section ConnectRuns

variable {s t : State} {w : Word} (hd : decode w = .ok .connect)
include hd

theorem RunsTo.connectStores {pos next : Pos} {f : State → State} (h : ConnectStores pos f next)
    (hs : s.seq = .running w pos) (run : RunsTo ((f s).movedTo w next) t) : RunsTo s t :=
  RunsTo.head hs hd (exec_connect_stores h hs) run

theorem RunsTo.connectChecks {pos next : Pos} (h : ConnectChecks pos next) (hs : s.seq = .running w pos)
    (hcancel : s.cancelPend = false) (run : RunsTo (s.movedTo w next) t) : RunsTo s t :=
  RunsTo.head hs hd (exec_connect_checks h hs hcancel) run

end ConnectRuns

/-! ## The marker -/

/-- The state at the first marker attempt (R240, R242). -/
def State.handshakeEntered (w : Word) (s : State) : State :=
  { s with hsAttempts := 0, hsState := .disconnected, seq := .running w .markerCheck }

/-- The state at the next marker attempt after `k` that failed, the answers `rest` left (R243). -/
def State.markersFailed (w : Word) (k : Nat) (rest : List SendAnswer) (s : State) : State :=
  { s with
    hsAttempts := s.hsAttempts + BitVec.ofNat 4 k
    sendAnswers := rest
    trace := s.trace ++ (List.replicate k [Event.send marker (some .err), .wait Config.params.ticksPerUnit]).flatten
    seq := .running w .markerCheck }

/-- The state at the encoding of the probe, after a marker that the Transport has taken (R243, R244). -/
def State.markerTaken (w : Word) (rest : List SendAnswer) (s : State) : State :=
  { s with
    hsAttempts := s.hsAttempts + 1
    hsState := .flipBitReset
    flip := false
    sendAnswers := rest
    trace := s.trace ++ [.send marker (some .ok), .wait s.settle]
    seq := .running w .probeStore }

theorem State.markersFailed_zero {s : State} {w : Word} (hs : s.seq = .running w .markerCheck) :
    s.markersFailed w 0 s.sendAnswers = s := by
  simp [State.markersFailed, ← hs]

/-- One failed marker and then `k` more are `k + 1`. -/
theorem State.markersFailed_succ (s : State) (w : Word) (k : Nat) (rest rest' : List SendAnswer) :
    (s.markersFailed w 1 rest).markersFailed w k rest' = s.markersFailed w (k + 1) rest' := by
  have hcount : s.hsAttempts + BitVec.ofNat 4 1 + BitVec.ofNat 4 k = s.hsAttempts + BitVec.ofNat 4 (k + 1) := by
    rw [BitVec.add_assoc, ← BitVec.ofNat_add, Nat.add_comm]
  simp [State.markersFailed, List.replicate_succ, ← hcount]

section Markers

variable {s : State} {w : Word} (hd : decode w = .ok .connect)
include hd

theorem RunsTo.handshakeEntered (hs : s.seq = .running w .start) (hsession : s.hsState ≠ .connected)
    (hfits : s.txLength.toNat ≤ 58) : RunsTo s (s.handshakeEntered w) := by
  have start := exec_connect_start hs
  rw [State.startConnect_of_fits hs hsession hfits] at start
  exact RunsTo.head hs hd start (RunsTo.connectStores hd .enterHandshake rfl (RunsTo.refl _))

theorem RunsTo.markerFailed {rest : List SendAnswer} (hs : s.seq = .running w .markerCheck)
    (hcancel : s.cancelPend = false) (hsend : s.sendAnswers = .err :: rest) (hleft : s.hsAttempts.toNat < 9) :
    RunsTo s (s.markersFailed w 1 rest) := by
  have hcount : (s.hsAttempts + 1).toNat ≠ 10 := by bv_omega
  refine RunsTo.connectChecks hd .marker hs hcancel (RunsTo.connectStores hd .markerCount rfl
    (RunsTo.head rfl hd (exec_connect_marker_err rfl (State.sendAnswer_of_cons hsend) hcount)
      (RunsTo.connectChecks hd .markerBackoff rfl (by simpa using hcancel)
        (RunsTo.connectStores hd .markerBackingOff rfl (RunsTo.of_eq ?_)))))
  rw [State.sent_of_cons (rest := rest) (by exact hsend)]
  simp [State.markersFailed, State.movedTo, State.wait, State.record]

/-- R243, for any number of failed markers short of the tenth. -/
theorem RunsTo.markersFailed {rest : List SendAnswer} (k : Nat) {s : State} (hs : s.seq = .running w .markerCheck)
    (hcancel : s.cancelPend = false) (hsend : s.sendAnswers = List.replicate k .err ++ rest)
    (hleft : s.hsAttempts.toNat + k ≤ 9) : RunsTo s (s.markersFailed w k rest) := by
  induction k generalizing s with
  | zero =>
    have hrest : s.sendAnswers = rest := hsend
    rw [← hrest, State.markersFailed_zero hs]
    exact RunsTo.refl s
  | succ k ih =>
    have first := RunsTo.markerFailed hd hs hcancel hsend (by omega)
    have hcount : (s.hsAttempts + BitVec.ofNat 4 1).toNat + k ≤ 9 := by bv_omega
    have others := ih (s := s.markersFailed w 1 (List.replicate k .err ++ rest)) rfl hcancel rfl hcount
    rw [State.markersFailed_succ] at others
    exact first.trans others

theorem RunsTo.markerTaken {rest : List SendAnswer} (hs : s.seq = .running w .markerCheck)
    (hcancel : s.cancelPend = false) (hsend : s.sendAnswers = .ok :: rest) : RunsTo s (s.markerTaken w rest) := by
  refine RunsTo.connectChecks hd .marker hs hcancel (RunsTo.connectStores hd .markerCount rfl
    (RunsTo.head rfl hd (exec_connect_marker_ok rfl (State.sendAnswer_of_cons hsend))
      (RunsTo.connectChecks hd .markerSettle rfl (by simpa using hcancel) (RunsTo.connectStores hd .markerSettling rfl
        (RunsTo.connectStores hd .flipReset rfl (RunsTo.connectStores hd .enterFlipBitReset rfl (RunsTo.of_eq ?_)))))))
  rw [State.sent_of_cons (rest := rest) (by exact hsend)]
  simp [State.markerTaken, State.movedTo, State.wait, State.record, State.setHs]

end Markers

/-! ## The probe -/

/-- The state at the Send of the probe, which stands in PKT and in REF (R245, R248). -/
def State.probeStored (w : Word) (probe : Bytes) (s : State) : State :=
  { (s.storePkt [probe]).storeReference with
    flip := s.flip ^^ Config.params.probeAdvances
    seq := .running w .probeCheck }

/-- The state at the wait for the auxiliary echo, the probe sent (R246, R249). -/
def State.probeSent (w : Word) (rest : List SendAnswer) (s : State) : State :=
  { s with
    hsState := .auxAckAwaited
    sendAnswers := rest
    trace := s.trace ++ [.send (s.packet 0) (some .ok), .wait s.settle]
    seq := .running w .auxCheck }

theorem State.storeProbe_of_stream {s : State} {w : Word} {pos : Pos} {probe : Bytes} (hs : s.seq = .running w pos)
    (hprobe : encodeStream s.txCommand s.txLength s.txPayload s.flip true = some [probe]) :
    s.storeProbe = (s.storePkt [probe]).movedTo w .probeRef := by
  have hstream : s.txStream true = some [probe] := hprobe
  rw [State.storeProbe, hstream]
  exact State.goto_eq_movedTo (s := s.storePkt [probe]) hs _

section Probe

variable {s : State} {w : Word} (hd : decode w = .ok .connect)
include hd

theorem RunsTo.probeStored {probe : Bytes} (hs : s.seq = .running w .probeStore)
    (hprobe : encodeStream s.txCommand s.txLength s.txPayload s.flip true = some [probe]) :
    RunsTo s (s.probeStored w probe) := by
  have stored := exec_connect_probeStore hs
  rw [State.storeProbe_of_stream hs hprobe] at stored
  refine RunsTo.head hs hd stored (RunsTo.connectStores hd .probeRef rfl
    (RunsTo.head rfl hd (exec_connect_probeAdvance rfl) (RunsTo.of_eq ?_)))
  simp [State.probeStored, State.movedTo, State.storeReference, State.packet]

theorem RunsTo.probeSent {rest : List SendAnswer} (hs : s.seq = .running w .probeCheck) (hcancel : s.cancelPend = false)
    (hsend : s.sendAnswers = .ok :: rest) : RunsTo s (s.probeSent w rest) := by
  refine RunsTo.connectChecks hd .probe hs hcancel
    (RunsTo.head rfl hd (exec_connect_probe_ok rfl (State.sendAnswer_of_cons hsend))
      (RunsTo.connectChecks hd .probeSettle rfl (by simpa using hcancel) (RunsTo.connectStores hd .probeSettling rfl
        (RunsTo.connectStores hd .enterProbeSent rfl (RunsTo.connectStores hd .enterAuxAck rfl (RunsTo.of_eq ?_))))))
  rw [State.sent_of_cons (rest := rest) (by exact hsend)]
  simp [State.probeSent, State.movedTo, State.wait, State.record, State.setHs, State.packet]

end Probe

/-! ## The echoes -/

/-- The state after an echo wait that has drained `drain` and then read the reference, with `rest` left (R250). -/
def State.echoed (w : Word) (aux : Bool) (drain rest : List RecvAnswer) (s : State) : State :=
  { s with
    recvAnswers := rest
    trace := s.trace ++ drain.map (fun a => .recv s.hsTimeout (some (RecvAnswer.clip a))) ++
      [.recv s.hsTimeout (some (.pkt s.reference))]
    seq := .running w (echoMatched aux) }

/-- The state at the next read of an echo wait that has drained `a` (R250). -/
def State.echoDrained (w : Word) (aux : Bool) (a : RecvAnswer) (rest : List RecvAnswer) (s : State) : State :=
  { s with
    recvAnswers := rest
    trace := s.trace ++ [.recv s.hsTimeout (some (RecvAnswer.clip a))]
    seq := .running w (echoCheck aux) }

theorem State.echoDrained_echoed (s : State) (w : Word) (aux : Bool) (a : RecvAnswer)
    (drain rest rest' : List RecvAnswer) :
    (s.echoDrained w aux a rest).echoed w aux drain rest' = s.echoed w aux (a :: drain) rest' := by
  simp [State.echoed, State.echoDrained, State.reference]

/-- The state at the wait for the main echo (R251, R252). -/
def State.mainEchoAwaited (w : Word) (s : State) : State :=
  { s.clearReferenceAck with hsState := .mainAckAwaited, seq := .running w .mainCheck }

/-- The state in which CONNECT has ended with a session (R253). -/
def State.sessionEntered (w : Word) (s : State) : State :=
  { s with
    connected := true
    hsState := .connected
    errCode := .none
    outcome := .none
    fatalCause := .none
    lastOp := opField w
    cancelPend := false
    done := true
    seq := .idle }

section Echoes

variable {s : State} {w : Word} (hd : decode w = .ok .connect)
include hd

theorem RunsTo.echoMatched {aux : Bool} {rest : List RecvAnswer} (hs : s.seq = .running w (echoCheck aux))
    (hcancel : s.cancelPend = false) (hrecv : s.recvAnswers = .pkt s.reference :: rest) :
    RunsTo s (s.echoed w aux [] rest) := by
  have hclip : RecvAnswer.clip (.pkt s.reference) = .pkt s.reference :=
    RecvAnswer.clip_pkt (Memory.length_readRange ..).le
  have hanswer : s.recvAnswer = .pkt s.reference := (State.recvAnswer_of_cons hrecv).trans hclip
  refine RunsTo.connectChecks hd (.echo aux) hs hcancel
    (RunsTo.head rfl hd (exec_connect_echo_matched rfl hanswer) (RunsTo.of_eq ?_))
  rw [State.received_of_cons (rest := rest) (by exact hrecv), hclip]
  simp [State.echoed, State.movedTo]

theorem RunsTo.echoDrained {aux : Bool} {a : RecvAnswer} {rest : List RecvAnswer}
    (hs : s.seq = .running w (echoCheck aux)) (hcancel : s.cancelPend = false) (hrecv : s.recvAnswers = a :: rest)
    (hio : RecvAnswer.clip a ≠ .ioerr) (hother : RecvAnswer.clip a ≠ .pkt s.reference) :
    RunsTo s (s.echoDrained w aux a rest) := by
  have hanswer : s.recvAnswer = RecvAnswer.clip a := State.recvAnswer_of_cons hrecv
  rw [← hanswer] at hio hother
  refine RunsTo.connectChecks hd (.echo aux) hs hcancel
    (RunsTo.head rfl hd (exec_connect_echo_drained rfl hio hother) (RunsTo.of_eq ?_))
  rw [State.received_of_cons (rest := rest) (by exact hrecv)]
  rfl

/-- R250, R254: an echo wait, for any number of answers to drain. -/
theorem RunsTo.echoed {aux : Bool} {rest : List RecvAnswer} (drain : List RecvAnswer) {s : State}
    (hs : s.seq = .running w (echoCheck aux)) (hcancel : s.cancelPend = false)
    (hdrain : ∀ a ∈ drain, RecvAnswer.clip a ≠ .ioerr ∧ RecvAnswer.clip a ≠ .pkt s.reference)
    (hrecv : s.recvAnswers = drain ++ .pkt s.reference :: rest) : RunsTo s (s.echoed w aux drain rest) := by
  induction drain generalizing s with
  | nil => exact RunsTo.echoMatched hd hs hcancel hrecv
  | cons a drain ih =>
    obtain ⟨⟨hio, hother⟩, hothers⟩ := List.forall_mem_cons.mp hdrain
    have first := RunsTo.echoDrained hd hs hcancel hrecv hio hother
    have others := ih (s := s.echoDrained w aux a (drain ++ .pkt s.reference :: rest)) rfl hcancel hothers rfl
    rw [State.echoDrained_echoed] at others
    exact first.trans others

theorem RunsTo.mainEchoAwaited (hs : s.seq = .running w .clearAckFlag) : RunsTo s (s.mainEchoAwaited w) :=
  RunsTo.connectStores hd .clearAckFlag hs (RunsTo.connectStores hd .enterMainAck rfl (RunsTo.refl _))

theorem RunsTo.sessionEntered (hs : s.seq = .running w .enterConnected) : RunsTo s (s.sessionEntered w) :=
  RunsTo.connectStores hd .enterConnected hs (RunsTo.head rfl hd (exec_connect_finishing rfl) (RunsTo.refl _))

end Echoes

/-! ## The whole command -/

/-- The events of CONNECT up to the echo waits, after `k` failed markers (R243 to R246). -/
def State.probeEvents (k : Nat) (probe : Bytes) (s : State) : List Event :=
  (List.replicate k [Event.send marker (some .err), .wait Config.params.ticksPerUnit]).flatten ++
    [.send marker (some .ok), .wait s.settle, .send probe (some .ok), .wait s.settle]

/-- The state at the wait for the auxiliary echo, from the start of CONNECT: the session's own registers are set up, PKT
and REF hold the probe, and the rest is as the command found it. -/
def State.probeOut (w : Word) (k : Nat) (probe : Bytes) (rest : List SendAnswer) (s : State) : State :=
  { s with
    hsAttempts := BitVec.ofNat 4 k + 1
    hsState := .auxAckAwaited
    flip := Config.params.probeAdvances
    pktCount := 1
    mem := (s.storePkt [probe]).storeReference.mem
    sendAnswers := rest
    trace := s.trace ++ s.probeEvents k probe
    seq := .running w .auxCheck }

/-- The events of one echo wait (R249, R250). -/
def State.echoEvents (drain : List RecvAnswer) (echo : Bytes) (s : State) : List Event :=
  drain.map (fun a => .recv s.hsTimeout (some (RecvAnswer.clip a))) ++ [.recv s.hsTimeout (some (.pkt echo))]

/-- The state in which CONNECT has ended, from the wait for the auxiliary echo (R249 to R253). -/
def State.handshakeDone (w : Word) (drain₁ drain₂ rest : List RecvAnswer) (s : State) : State :=
  { s with
    mem := s.clearReferenceAck.mem
    recvAnswers := rest
    trace := s.trace ++ s.echoEvents drain₁ s.reference ++ s.echoEvents drain₂ s.clearReferenceAck.reference
    connected := true
    hsState := .connected
    errCode := .none
    outcome := .none
    fatalCause := .none
    lastOp := opField w
    cancelPend := false
    done := true
    seq := .idle }

/-- `StorePkt` and `REF <- P[0]` leave the probe in both. -/
theorem State.packet_storeReference_storePkt (s : State) {ps : List Bytes} (hlength : ∀ q ∈ ps, q.length = 64)
    (hcount : ps.length ≤ 16) {j : Nat} (hj : j < 16) :
    (s.storePkt ps).storeReference.packet j = (ps[j]?).getD (List.replicate 64 0) := by
  rw [State.packet_congr (fun a _ ha => (s.storePkt ps).read_storeReference_of_lt ha) hj,
    s.packet_storePkt hlength hcount hj]

section Connect

variable {s : State} {w : Word} (hd : decode w = .ok .connect)
include hd

/-- R240 to R246: the first part of CONNECT, over a Transport that fails at most nine markers. -/
theorem RunsTo.probeOut {k : Nat} {probe : Bytes} {rest : List SendAnswer} (hs : s.seq = .running w .start)
    (hsession : s.hsState ≠ .connected) (hfits : s.txLength.toNat ≤ 58) (hcancel : s.cancelPend = false) (hk : k ≤ 9)
    (hprobe : encodeStream s.txCommand s.txLength s.txPayload false true = some [probe])
    (hsend : s.sendAnswers = List.replicate k .err ++ .ok :: .ok :: rest) : RunsTo s (s.probeOut w k probe rest) := by
  let taken : State := ((s.handshakeEntered w).markersFailed w k (.ok :: .ok :: rest)).markerTaken w (.ok :: rest)
  have entered := RunsTo.handshakeEntered hd hs hsession hfits
  have failed := RunsTo.markersFailed hd k (s := s.handshakeEntered w) rfl hcancel hsend
    (by rw [show (s.handshakeEntered w).hsAttempts.toNat = 0 from rfl, Nat.zero_add]; exact hk)
  have tookMarker : RunsTo _ taken := RunsTo.markerTaken hd rfl hcancel rfl
  have stored := RunsTo.probeStored hd (s := taken) rfl hprobe
  have hkept : (taken.probeStored w probe).cancelPend = taken.cancelPend := rfl
  have sent := RunsTo.probeSent hd (s := taken.probeStored w probe) rfl (hkept.trans hcancel) (rest := rest) rfl
  refine entered.trans (failed.trans (tookMarker.trans (stored.trans (sent.trans (RunsTo.of_eq ?_)))))
  obtain ⟨-, -, hcount, hlength⟩ := encodeStream_length hprobe
  have hpacket : (taken.probeStored w probe).packet 0 = probe :=
    taken.packet_storeReference_storePkt hlength hcount (by omega)
  rw [State.probeSent, hpacket]
  simp [taken, State.probeOut, State.probeEvents, State.probeStored, State.markerTaken, State.markersFailed,
    State.handshakeEntered, State.storePkt, State.storeReference, State.packet]

/-- R249 to R253: the rest of CONNECT, over a Transport that delivers both echoes. -/
theorem RunsTo.handshakeDone {drain₁ drain₂ rest : List RecvAnswer} (hs : s.seq = .running w .auxCheck)
    (hcancel : s.cancelPend = false)
    (hdrain₁ : ∀ a ∈ drain₁, RecvAnswer.clip a ≠ .ioerr ∧ RecvAnswer.clip a ≠ .pkt s.reference)
    (hdrain₂ : ∀ a ∈ drain₂, RecvAnswer.clip a ≠ .ioerr ∧ RecvAnswer.clip a ≠ .pkt s.clearReferenceAck.reference)
    (hrecv : s.recvAnswers =
      drain₁ ++ .pkt s.reference :: (drain₂ ++ .pkt s.clearReferenceAck.reference :: rest)) :
    RunsTo s (s.handshakeDone w drain₁ drain₂ rest) := by
  let aux : State := s.echoed w true drain₁ (drain₂ ++ .pkt s.clearReferenceAck.reference :: rest)
  have first : RunsTo s aux := RunsTo.echoed hd drain₁ hs hcancel hdrain₁ hrecv
  have awaited : RunsTo aux (aux.mainEchoAwaited w) := RunsTo.mainEchoAwaited hd rfl
  have second := RunsTo.echoed hd drain₂ (aux := false) (s := aux.mainEchoAwaited w) (rest := rest) rfl hcancel
    hdrain₂ rfl
  have entered := RunsTo.sessionEntered hd (s := (aux.mainEchoAwaited w).echoed w false drain₂ rest) rfl
  refine first.trans (awaited.trans (second.trans (entered.trans (RunsTo.of_eq ?_))))
  simp [aux, State.handshakeDone, State.echoEvents, State.sessionEntered, State.echoed, State.mainEchoAwaited,
    State.clearReferenceAck, State.reference]

end Connect

theorem State.probeOut_hostSide (s : State) (w : Word) (k : Nat) (probe : Bytes) (rest : List SendAnswer) :
    SameHostSide s (s.probeOut w k probe rest) :=
  ⟨rfl, rfl, rfl, rfl, rfl, rfl, rfl, rfl, rfl, rfl, rfl, rfl⟩

theorem State.handshakeDone_hostSide (s : State) (w : Word) (drain₁ drain₂ rest : List RecvAnswer) :
    SameHostSide s (s.handshakeDone w drain₁ drain₂ rest) :=
  ⟨rfl, rfl, rfl, rfl, rfl, rfl, rfl, rfl, rfl, rfl, rfl, rfl⟩

theorem State.handshakeDone_ended (s : State) (w : Word) (drain₁ drain₂ rest : List RecvAnswer) :
    Ended w .none .none (s.handshakeDone w drain₁ drain₂ rest) :=
  ⟨rfl, rfl, rfl, rfl, rfl, rfl, rfl⟩

/-- Settles O45: CONNECT is the run to the wait for the auxiliary echo, which leaves the probe in PKT and in REF, and
the two echo waits, which write REF only. -/
theorem connectReachesConnected : Obligations.ConnectReachesConnected := by
  intro s w k drain₁ drain₂ sendRest recvRest probe hd hs hsession hfits hcancel hk hprobe hdrain₁ hdrain₂ hsend hrecv
  obtain ⟨-, -, hcount, hlength⟩ := encodeStream_length hprobe
  have hpackets (j : Nat) (hj : j < 16) : (s.probeOut w k probe sendRest).packet j = _ :=
    s.packet_storeReference_storePkt hlength hcount hj
  have hprobeRef : (s.probeOut w k probe sendRest).reference = probe :=
    (s.storePkt [probe]).reference_storeReference.trans (s.packet_storePkt hlength hcount (by omega))
  have hmainRef : (s.probeOut w k probe sendRest).clearReferenceAck.reference =
      clearAck (probe.getD 0 0) :: probe.tail := by
    rw [State.reference_clearReferenceAck, hprobeRef]
  have out := RunsTo.probeOut hd hs hsession hfits hcancel hk hprobe hsend
  have done := RunsTo.handshakeDone hd (s := s.probeOut w k probe sendRest) (rest := recvRest) rfl hcancel
    (by rw [hprobeRef]; exact hdrain₁) (by rw [hmainRef]; exact hdrain₂) (by rw [hprobeRef, hmainRef]; exact hrecv)
  have memory (a : Nat) (ha : a < 0x1400) :
      Memory.read ((s.probeOut w k probe sendRest).handshakeDone w drain₁ drain₂ recvRest).mem a =
        Memory.read (s.probeOut w k probe sendRest).mem a :=
    ((s.probeOut w k probe sendRest).read_clearReferenceAck a).trans (if_neg (by omega))
  refine ⟨_, out.trans done, State.handshakeDone_ended .., rfl, rfl, rfl, ?attempts, rfl, ?probe, ?others, hmainRef,
    rfl, rfl, (s.probeOut_hostSide ..).trans (State.handshakeDone_hostSide ..), ?frame, rfl, rfl, rfl, rfl, ?trace⟩
  case attempts =>
    show (BitVec.ofNat 4 k + 1).toNat = k + 1
    bv_omega
  case probe => rw [State.packet_congr (fun a _ ha => memory a ha) (by omega), hpackets 0 (by omega)]; rfl
  case others =>
    intro j hpos hj
    rw [State.packet_congr (fun a _ ha => memory a ha) hj, hpackets j hj, List.getElem?_eq_none (by simpa using hpos)]
    rfl
  case frame =>
    intro a ha
    rw [inTx_iff, inRx_iff] at ha
    calc _ = _ := memory a (by omega)
      _ = Memory.read (s.storePkt [probe]).mem a := (s.storePkt [probe]).read_storeReference_of_lt (by omega)
      _ = Memory.read s.mem a := s.storePkt_sameMemoryOutside [probe] a (by omega)
  case trace =>
    rw [State.handshakeDone, hprobeRef, hmainRef]
    simp [State.probeOut, State.probeEvents, State.echoEvents]

end Sys2Proof.Machine

/-! SUPPORT. Where STATUS.FATAL comes from (60_exceptions.md R286, R287): what every operation of the lines makes of it,
the failed call under EOT = 1 as the one line that raises it, and the obligation about that. -/

namespace Sys2Proof.Machine

/-! ## Operations that keep STATUS.FATAL -/

@[simp] theorem State.cancel_fatal (scope : CancelScope) (s : State) : (s.cancel scope).fatal = s.fatal := by
  cases scope <;> rfl

@[simp] theorem State.checkCancel_fatal (scope : CancelScope) (next : Pos) (s : State) :
    (s.checkCancel scope next).fatal = s.fatal := by
  obtain ⟨-, h⟩ | ⟨-, h⟩ := s.checkCancel_cases scope next
  · rw [h, State.goto_fatal]
  · rw [h, State.cancel_fatal]

/-! ### Reassemble -/

@[simp] theorem State.startStream_fatal (s : State) : s.startStream.fatal = s.fatal := rfl

@[simp] theorem State.noMessage_fatal (s : State) : s.noMessage.fatal = s.fatal := rfl

@[simp] theorem State.countDebug_fatal (s : State) : s.countDebug.fatal = s.fatal := rfl

@[simp] theorem State.takePacket_fatal (b : Bytes) (s : State) : (s.takePacket b).fatal = s.fatal := by
  unfold State.takePacket
  split <;> rfl

@[simp] theorem State.dispatchStream_fatal (p : Config.Params) (s : State) : (s.dispatchStream p).fatal = s.fatal := by
  unfold State.dispatchStream
  split_ifs <;> rfl

@[simp] theorem State.endConsume_fatal (o : RxOutcome) (s : State) : (s.endConsume o).fatal = s.fatal := by
  cases o <;> rfl

/-! ### The sending commands -/

@[simp] theorem State.transmitHead_fatal (j : Nat) (s : State) : (s.transmitHead j).fatal = s.fatal := by
  unfold State.transmitHead
  split_ifs
  · exact s.checkCancel_fatal _ _
  · rfl

@[simp] theorem State.startSending_fatal (c : Half) (s : State) : (s.startSending c).fatal = s.fatal := by
  unfold State.startSending
  split_ifs
  · split <;> rfl
  · rfl

@[simp] theorem State.decideReply_fatal (p : Config.Params) (arg : Bool) (o : RxOutcome) (s : State) :
    (s.decideReply p arg o).fatal = s.fatal := by
  cases o with
  | msg => unfold State.decideReply; split_ifs <;> rfl
  | retry => cases arg <;> rfl
  | noMsg | fail => rfl

@[simp] theorem State.retryOrGiveUp_fatal (r : BusyReply) (s : State) : (s.retryOrGiveUp r).fatal = s.fatal := by
  unfold State.retryOrGiveUp
  split_ifs <;> rfl

@[simp] theorem State.countRetry_fatal (s : State) : s.countRetry.fatal = s.fatal := rfl

/-! ### CONNECT -/

@[simp] theorem State.startConnect_fatal (s : State) : s.startConnect.fatal = s.fatal := by
  unfold State.startConnect
  split_ifs <;> rfl

@[simp] theorem State.sendMarker_fatal (s : State) : s.sendMarker.fatal = s.fatal := by
  unfold State.sendMarker
  split
  · rfl
  · split_ifs <;> rfl

@[simp] theorem State.storeProbe_fatal (s : State) : s.storeProbe.fatal = s.fatal := by
  unfold State.storeProbe
  split <;> rfl

@[simp] theorem State.sendProbe_fatal (s : State) : s.sendProbe.fatal = s.fatal := by
  unfold State.sendProbe
  split <;> rfl

@[simp] theorem State.awaitEcho_fatal (again matched : Pos) (s : State) :
    (s.awaitEcho again matched).fatal = s.fatal := by
  unfold State.awaitEcho
  split
  · split_ifs <;> rfl
  · rfl
  · rfl

/-! ## Fatal entry -/

/-- At the first position a Recv or a Send of `s` fails: with the cause of the second, and with the last as the state
once the call is answered. -/
inductive FailedCall (s : State) : Pos → FatalCause → State → Prop
  | send (j : Nat) (ha : s.sendAnswer = .err) : FailedCall s (.sending j) .txErr (s.sent (s.packet j))
  | recv {pos : Pos} {cause : FatalCause} (hpos : pos = .receiving ∨ pos = .ackReceiving)
      (ha : (s.recvAnswer = .timeout ∧ cause = .rxTimeout) ∨ (s.recvAnswer = .ioerr ∧ cause = .rxIoErr)) :
      FailedCall s pos cause (s.received s.readTimeout)

/-- The line at `pos` keeps FATAL, or it is a call that fails under EOT = 1, followed by fatal entry. -/
def FatalOnlyByEntry (eot : Bool) (pos : Pos) (s t : State) : Prop :=
  t.fatal = s.fatal ∨
    (eot = true ∧ ∃ cause after, FailedCall s pos cause after ∧ t = State.raiseFatal cause after)

/-- A failed call goes on by EOT: fatal entry, or whatever keeps FATAL. -/
theorem FailedCall.fatalOnlyByEntry {s after : State} {pos : Pos} {cause : FatalCause}
    (h : FailedCall s pos cause after) (eot : Bool) {soft : State → State} (hsoft : (soft after).fatal = s.fatal) :
    FatalOnlyByEntry eot pos s (after.recvFailed eot cause soft) := by
  cases eot with
  | true => exact .inr ⟨rfl, cause, after, h, rfl⟩
  | false => exact .inl hsoft

theorem State.sendPacket_fatalOnlyByEntry (eot : Bool) (j : Nat) (s : State) :
    FatalOnlyByEntry eot (.sending j) s (s.sendPacket eot j) := by
  unfold State.sendPacket
  split
  next => exact .inl rfl
  next ha => exact (FailedCall.send j ha).fatalOnlyByEntry eot rfl

theorem State.receivePacket_fatalOnlyByEntry (eot : Bool) (s : State) :
    FatalOnlyByEntry eot .receiving s (s.receivePacket eot) := by
  unfold State.receivePacket
  split
  next => exact .inl (State.takePacket_fatal _ _)
  next ha => exact (FailedCall.recv (.inl rfl) (.inl ⟨ha, rfl⟩)).fatalOnlyByEntry eot rfl
  next ha => exact (FailedCall.recv (.inl rfl) (.inr ⟨ha, rfl⟩)).fatalOnlyByEntry eot rfl

theorem State.receiveAck_fatalOnlyByEntry (eot : Bool) (s : State) :
    FatalOnlyByEntry eot .ackReceiving s (s.receiveAck eot) := by
  unfold State.receiveAck
  split
  next => exact .inl rfl
  next ha => exact (FailedCall.recv (.inr rfl) (.inl ⟨ha, rfl⟩)).fatalOnlyByEntry eot rfl
  next ha => exact (FailedCall.recv (.inr rfl) (.inr ⟨ha, rfl⟩)).fatalOnlyByEntry eot rfl

/-! ## The lines that can enter the fatal state -/

section Lines

variable {eot : Bool} {pos : Pos} {s t : State}

theorem reassembleLine_fatalOnlyByEntry {p : Config.Params} (h : reassembleLine p eot pos s = .next t) :
    FatalOnlyByEntry eot pos s t := by
  unfold reassembleLine at h
  split at h
  -- the Recv, and a position without a line
  case h_3 => cases h; exact s.receivePacket_fatalOnlyByEntry eot
  case h_7 => cases h
  all_goals
    cases h
    exact .inl (by simp)

theorem transmitLine_fatalOnlyByEntry (h : transmitLine eot pos s = .next t) : FatalOnlyByEntry eot pos s t := by
  unfold transmitLine at h
  split at h
  -- the Send, and a position without a line
  case h_2 j => cases h; exact s.sendPacket_fatalOnlyByEntry eot j
  case h_5 => cases h
  all_goals
    cases h
    exact .inl (by simp)

variable {w : Word}

theorem exec_consume_fatalOnlyByEntry (hs : s.seq = .running w pos) (h : exec (.consume eot) s = .next t) :
    FatalOnlyByEntry eot pos s t := by
  change consumeLine _ _ _ = _ at h
  rw [consumeLine, hs] at h
  split at h
  case h_1 => cases h; exact .inl (by split_ifs <;> simp)
  case h_2 | h_3 => cases h; exact .inl (by simp)
  case h_4 hpos => cases hpos; exact reassembleLine_fatalOnlyByEntry h
  case h_5 => cases h

theorem exec_request_fatalOnlyByEntry {arg : Bool} (hs : s.seq = .running w pos)
    (h : exec (.request arg eot) s = .next t) : FatalOnlyByEntry eot pos s t := by
  change requestLine _ _ _ _ = _ at h
  rw [requestLine, hs] at h
  split at h
  case h_1 => cases h; rw [State.startRequest_eq]; exact .inl (by simp)
  -- TransmitStream, the acknowledgment's Recv, Reassemble and IDLE
  case h_4 hpos | h_5 hpos | h_6 hpos | h_7 hpos => cases hpos; exact transmitLine_fatalOnlyByEntry h
  case h_10 hpos => cases hpos; cases h; exact s.receiveAck_fatalOnlyByEntry eot
  case h_17 hpos => cases hpos; exact reassembleLine_fatalOnlyByEntry h
  case h_18 => cases h
  all_goals
    cases h
    exact .inl (by simp)

theorem exec_sendOnly_fatalOnlyByEntry (hs : s.seq = .running w pos) (h : exec (.sendOnly eot) s = .next t) :
    FatalOnlyByEntry eot pos s t := by
  change execSendOnly _ _ = _ at h
  rw [execSendOnly, hs] at h
  split at h
  case h_1 => cases h; rw [State.startSendOnly_eq]; exact .inl (by simp)
  case h_2 | h_3 => cases h; exact .inl (by simp)
  case h_4 hpos => cases hpos; exact transmitLine_fatalOnlyByEntry h
  case h_5 => cases h

end Lines

/-! ## The commands that cannot enter it -/

section Keeping

variable {s t : State}

theorem exec_encode_fatal (h : exec .encode s = .next t) : t.fatal = s.fatal := by
  change execEncode _ = _ at h
  unfold execEncode at h
  split at h
  · split at h
    · cases h; rfl
    · cases h; rfl
  · cases h; rfl
  · cases h

theorem exec_advance_fatal (h : exec .advance s = .next t) : t.fatal = s.fatal := by
  change execAdvance _ = _ at h
  unfold execAdvance at h
  split at h
  · cases h; rfl
  · cases h; rfl
  · cases h

theorem exec_resetFlip_fatal {arg : Bool} (h : exec (.resetFlip arg) s = .next t) : t.fatal = s.fatal := by
  change execResetFlip _ _ = _ at h
  unfold execResetFlip at h
  split at h
  · cases h; rfl
  · cases h; rfl
  · cases h

theorem exec_disconnect_fatal (h : exec .disconnect s = .next t) : t.fatal = s.fatal := by
  change execDisconnect _ = _ at h
  unfold execDisconnect at h
  split at h
  case h_1 => cases h; split_ifs <;> rfl
  case h_6 => cases h
  all_goals
    cases h
    rfl

theorem exec_connect_fatal (h : exec .connect s = .next t) : t.fatal = s.fatal := by
  change connectLine _ _ = _ at h
  unfold connectLine at h
  split at h
  -- `if P_PROBE_ADVANCES: Advance()`, and a position without a line
  case h_14 => cases h; simp only [State.goto_fatal]; split_ifs <;> rfl
  case h_29 => cases h
  all_goals
    cases h
    simp

end Keeping

/-! ## The obligation -/

/-- R286: the three commands with an EOT bit, and only a failed call under EOT = 1. -/
theorem fatalEntry_of_exec {i : Instr} {s t : State} {w : Word} {pos : Pos} (hs : s.seq = .running w pos)
    (hnot : s.fatal = false) (hexec : exec i s = .next t) (hfatal : t.fatal = true) :
    (i = .consume true ∨ (∃ arg, i = .request arg true) ∨ i = .sendOnly true) ∧
      ∃ cause after, FailedCall s pos cause after ∧ t = State.raiseFatal cause after := by
  have hchanged : t.fatal ≠ s.fatal := by rw [hnot, hfatal]; decide
  cases i with
  | encode => exact absurd (exec_encode_fatal hexec) hchanged
  | advance => exact absurd (exec_advance_fatal hexec) hchanged
  | resetFlip arg => exact absurd (exec_resetFlip_fatal hexec) hchanged
  | connect => exact absurd (exec_connect_fatal hexec) hchanged
  | disconnect => exact absurd (exec_disconnect_fatal hexec) hchanged
  | consume eot =>
    obtain ⟨rfl, hentry⟩ := (exec_consume_fatalOnlyByEntry hs hexec).resolve_left hchanged
    exact ⟨.inl rfl, hentry⟩
  | request arg eot =>
    obtain ⟨rfl, hentry⟩ := (exec_request_fatalOnlyByEntry hs hexec).resolve_left hchanged
    exact ⟨.inr (.inl ⟨arg, rfl⟩), hentry⟩
  | sendOnly eot =>
    obtain ⟨rfl, hentry⟩ := (exec_sendOnly_fatalOnlyByEntry hs hexec).resolve_left hchanged
    exact ⟨.inr (.inr rfl), hentry⟩

/-- The call itself does not move SEQ, so LAST_OP is the failing command's. -/
theorem FailedCall.seq_eq {s after : State} {pos : Pos} {cause : FatalCause} (h : FailedCall s pos cause after) :
    after.seq = s.seq := by
  cases h <;> rfl

/-- Settles O51: the line is a failed call and fatal entry after it, whose writes are those of R287. -/
theorem fatalEntryOnlyUnderExitOnTimeout : Obligations.FatalEntryOnlyUnderExitOnTimeout := by
  intro i s t w pos hs hnot hexec hfatal
  obtain ⟨hcommand, cause, after, hcall, rfl⟩ := fatalEntry_of_exec hs hnot hexec hfatal
  have hlastOp : (after.raiseFatal cause).lastOp = w.extractLsb' 0 8 := by
    rw [State.raiseFatal_lastOp, hcall.seq_eq, hs]
    rfl
  refine ⟨hcommand, ⟨cause, ?causeNotNone, ?call⟩, rfl, rfl, hlastOp, rfl, rfl, rfl, rfl, rfl, rfl⟩
  case causeNotNone =>
    cases hcall with
    | send j ha => decide
    | recv hpos ha => obtain ⟨-, rfl⟩ | ⟨-, rfl⟩ := ha <;> decide
  case call =>
    cases hcall with
    | send j ha => exact .inl ⟨j, rfl, ha, rfl, rfl⟩
    | recv hpos ha => exact .inr ⟨hpos, ha, rfl⟩

end Sys2Proof.Machine

/-! SUPPORT. The cancel points with a cancellation pending (60_exceptions.md R301, R302): what the line of each is in
the commands that have it, the finish that a clean-up line leaves pending, and the obligation about them. -/

namespace Sys2Proof.Machine

section CancelPoints

variable {s : State} {w : Word}

/-! ## Reassemble -/

theorem exec_rxCheck_cancelled {i : Instr} (hi : (∃ eot, i = .consume eot) ∨ ∃ arg eot, i = .request arg eot)
    (hs : s.seq = .running w .rxCheck) (hcancel : s.cancelPend = true) :
    exec i s = .next { s with rxState := .awaitFirstPacket, seq := .running w (.finishing .cancelled .none) } := by
  obtain ⟨eot, line⟩ := exec_reassembleLine hi hs rfl
  rw [line, reassembleLine, State.checkCancel_of_pending hcancel, State.cancel_reassembly hs]

/-! ## TransmitStream -/

section Transmit

variable {i : Instr} {eot : Bool} {j : Nat} (hi : i = .sendOnly eot ∨ ∃ arg, i = .request arg eot)
include hi

/-- Before a packet's Send; after the last packet there is no cancel point. -/
theorem exec_transmit_cancelled (hs : s.seq = .running w (.transmit j)) (hj : j < s.pktCount.toNat)
    (hcancel : s.cancelPend = true) : exec i s = .next (s.finish .cancelled .none) := by
  rw [exec_transmitLine hi hs rfl (by simp), transmitLine, State.transmitHead, if_pos hj,
    State.checkCancel_of_pending hcancel, State.cancel_plain]

theorem exec_settleCheck_cancelled (hs : s.seq = .running w (.settleCheck j)) (hcancel : s.cancelPend = true) :
    exec i s = .next (s.finish .cancelled .none) := by
  rw [exec_transmitLine hi hs rfl (by simp), transmitLine, State.checkCancel_of_pending hcancel, State.cancel_plain]

end Transmit

/-! ## The acknowledgment and the backoff of REQUEST -/

theorem exec_request_ackCheck_cancelled {arg eot : Bool} (hs : s.seq = .running w .ackCheck)
    (hcancel : s.cancelPend = true) : exec (.request arg eot) s = .next (s.finish .cancelled .none) := by
  rw [exec_request_ackCheck hs, State.checkCancel_of_pending hcancel, State.cancel_plain]

theorem exec_request_backoffCheck_cancelled {arg eot : Bool} (hs : s.seq = .running w .backoffCheck)
    (hcancel : s.cancelPend = true) : exec (.request arg eot) s = .next (s.finish .cancelled .none) := by
  show requestLine _ _ _ _ = _
  rw [requestLine, hs]
  exact congrArg _ (State.checkCancel_of_pending hcancel _ _)

/-! ## CONNECT -/

/-- The cancel points of CONNECT, as the positions that `ConnectChecks` lists. -/
theorem ConnectChecks.of_mem {pos : Pos}
    (h : pos ∈ [Pos.markerCheck, .markerBackoffCheck, .markerSettleCheck, .probeCheck, .probeSettleCheck, .auxCheck,
      .mainCheck]) : ∃ next, ConnectChecks pos next := by
  simp only [List.mem_cons, List.not_mem_nil, or_false] at h
  obtain rfl | rfl | rfl | rfl | rfl | rfl | rfl := h
  exacts [⟨_, .marker⟩, ⟨_, .markerBackoff⟩, ⟨_, .markerSettle⟩, ⟨_, .probe⟩, ⟨_, .probeSettle⟩, ⟨_, .aux⟩, ⟨_, .main⟩]

theorem exec_connect_cancelled {pos next : Pos} (h : ConnectChecks pos next) (hs : s.seq = .running w pos)
    (hcancel : s.cancelPend = true) :
    exec .connect s = .next { s with hsState := .failed, seq := .running w (.finishing .cancelled .none) } := by
  show connectLine _ _ = _
  rw [connectLine, hs]
  cases h
  all_goals exact congrArg _ ((State.checkCancel_of_pending hcancel _ _).trans (State.cancel_handshake hs))

/-! ## The finish after a clean-up line -/

variable {err : ErrCode} {outcome : Reply}

theorem exec_consume_finishing {eot : Bool} (hs : s.seq = .running w (.finishing err outcome)) :
    exec (.consume eot) s = .next (s.finish err outcome) := by
  show consumeLine _ _ _ = _
  rw [consumeLine, hs]

theorem exec_request_finishing {arg eot : Bool} (hs : s.seq = .running w (.finishing err outcome)) :
    exec (.request arg eot) s = .next (s.finish err outcome) := by
  show requestLine _ _ _ _ = _
  rw [requestLine, hs]

end CancelPoints

/-! ## The obligation -/

/-- Settles O53: by the cancel points, and by the commands that have each. -/
theorem cancelPointsEndTheCommand : Obligations.CancelPointsEndTheCommand := by
  intro s w pos hs hcancel
  refine ⟨?reassembly, ?transmission, ?request, ?handshake, ?finish⟩
  case reassembly =>
    rintro i hi rfl
    exact exec_rxCheck_cancelled hi hs hcancel
  case transmission =>
    intro i hi hpos
    obtain ⟨eot, hsending⟩ : ∃ eot, i = .sendOnly eot ∨ ∃ arg, i = .request arg eot := by
      obtain ⟨arg, eot, rfl⟩ | ⟨eot, rfl⟩ := hi
      · exact ⟨eot, .inr ⟨arg, rfl⟩⟩
      · exact ⟨eot, .inl rfl⟩
    obtain ⟨j, rfl, hj⟩ | ⟨j, rfl⟩ := hpos
    · exact exec_transmit_cancelled hsending hs hj hcancel
    · exact exec_settleCheck_cancelled hsending hs hcancel
  case request =>
    rintro arg eot (rfl | rfl)
    · exact exec_request_ackCheck_cancelled hs hcancel
    · exact exec_request_backoffCheck_cancelled hs hcancel
  case handshake =>
    intro hpos
    obtain ⟨next, hcheck⟩ := ConnectChecks.of_mem hpos
    exact exec_connect_cancelled hcheck hs hcancel
  case finish =>
    rintro i (⟨eot, rfl⟩ | ⟨arg, eot, rfl⟩ | rfl) rfl
    · exact exec_consume_finishing hs
    · exact exec_request_finishing hs
    · exact exec_connect_finishing hs

end Sys2Proof.Machine

/-! SUPPORT. The encoder's words as their fields (30_encoding.md R90 to R92), and the obligations about the encoding. -/

namespace Sys2Proof.Machine

/-! ## The encoder and the decoder -/

/-- R90: ARG and EOT are the two operand bits. -/
theorem getLsbD_operands (w : Word) :
    w.getLsbD 8 = (w.extractLsb' 8 2).getLsbD 0 ∧ w.getLsbD 9 = (w.extractLsb' 8 2).getLsbD 1 := by
  simp

/-- R92: the operand bits that the command uses, EOT above ARG. -/
def operandBits : Instr → BitVec 2
  | .encode | .advance | .connect | .disconnect => 0b00
  | .resetFlip _ => 0b01
  | .consume _ | .sendOnly _ => 0b10
  | .request _ _ => 0b11

/-- What a command reads of a word, field by field. -/
theorem and_operandMask_eq_append (w : Word) (i : Instr) :
    w &&& (0xFFFFFCFF#32 ||| operandMask i) =
      reservedField w ++ ((w.extractLsb' 8 2 &&& operandBits i) ++ opField w) := by
  have hmask : 0xFFFFFCFF#32 ||| operandMask i = BitVec.allOnes 22 ++ (operandBits i ++ BitVec.allOnes 8) := by
    cases i <;> (simp only [operandMask, operandBits]; decide)
  conv_lhs => rw [word_eq_append w, hmask]
  rw [BitVec.and_append, BitVec.and_append, BitVec.and_allOnes, BitVec.and_allOnes]

/-- R92: the encoder writes the row's opcode and the operand bits that the command uses. -/
theorem encode_withOperands (w : Word) (i : Instr) :
    encode (withOperands w i) = 0#22 ++ ((w.extractLsb' 8 2 &&& operandBits i) ++ opField (tableMatch i)) := by
  obtain ⟨harg, heot⟩ := getLsbD_operands w
  unfold withOperands
  rw [harg, heot]
  generalize w.extractLsb' 8 2 = x
  cases i <;> (simp only [encode, operandBits, tableMatch]; revert x; decide)

theorem withOperands_of_decode {w : Word} {i : Instr} (h : decode w = .ok i) : withOperands w i = i :=
  Except.ok.inj ((decode_of_match (match_of_decode h)).symm.trans h)

theorem decode_encode (i : Instr) : decode (encode i) = .ok i := by
  cases i with
  | encode | advance | connect | disconnect => decide
  | consume b | resetFlip b | sendOnly b => cases b <;> decide
  | request arg eot => cases arg <;> cases eot <;> decide

/-- Settles O3: a decoded command is its row with the word's operands, and the encoder writes back those of the word's
fields that the row reads. -/
theorem decodeAndEncodeAgree : Obligations.DecodeAndEncodeAgree := by
  refine ⟨decode_encode, fun w i h => ?_⟩
  obtain ⟨hreserved, hop⟩ := fields_of_decode h
  calc encode i
      = encode (withOperands w i) := by rw [withOperands_of_decode h]
    _ = 0#22 ++ ((w.extractLsb' 8 2 &&& operandBits i) ++ opField (tableMatch i)) := encode_withOperands w i
    _ = reservedField w ++ ((w.extractLsb' 8 2 &&& operandBits i) ++ opField w) := by rw [hreserved, hop]; rfl
    _ = w &&& (0xFFFFFCFF#32 ||| operandMask i) := (and_operandMask_eq_append w i).symm

/-- Settles O1: the decoder, evaluated on each word. -/
theorem sampleCommandWordsDecode : Obligations.SampleCommandWordsDecode := by
  unfold Obligations.SampleCommandWordsDecode
  decide

end Sys2Proof.Machine

/-! SUPPORT. The bytes of a bus value (20_memory.md R62, R63), what a permitted access to a buffer returns and stores, and
the obligations about the buffers. -/

namespace Sys2Proof.Machine

/-! ## Bytes and values -/

theorem toNat_append_eq {m n : Nat} (x : BitVec m) (y : BitVec n) : (x ++ y).toNat = 2 ^ n * x.toNat + y.toNat := by
  rw [BitVec.toNat_append, ← Nat.shiftLeft_add_eq_or_of_lt y.isLt, Nat.shiftLeft_eq, Nat.mul_comm]

theorem leNat_append_singleton (bs : Bytes) (b : Byte) : leNat (bs ++ [b]) = leNat bs + 256 ^ bs.length * b.toNat := by
  induction bs with
  | nil => simp [leNat]
  | cons c bs ih =>
    rw [List.cons_append, leNat, leNat, ih, List.length_cons, Nat.pow_succ]
    ring

/-- R63: the low bytes of a value are the value cut to the access's width. -/
theorem leNat_leBytes (n : Nat) (v : Word) : leNat (leBytes n v) = v.toNat % 2 ^ (8 * n) := by
  induction n with
  | zero => exact (Nat.mod_one _).symm
  | succ n ih =>
    have hlast : leBytes (n + 1) v = leBytes n v ++ [v.extractLsb' (8 * n) 8] := by
      simp [leBytes, List.range_succ]
    have hpow : 256 ^ n = 2 ^ (8 * n) := by rw [Nat.pow_mul]
    rw [hlast, leNat_append_singleton, ih, length_leBytes, hpow, BitVec.extractLsb'_toNat, Nat.shiftRight_eq_div_pow,
      Nat.mul_succ, Nat.pow_add, Nat.mod_mul]

/-! ## An access that lies in a buffer -/

/-- R62: a permitted access to a buffer reads the buffer's own bytes. -/
theorem hostRead_of_inBuffer {p : Config.Params} {width : Width} {off : Offset} (s : State)
    (hin : inBuffer off.toNat = true) (hpermitted : permitted width off = true) :
    s.hostRead p width off = BitVec.ofNat 32 (leNat (Memory.readRange s.mem off.toNat (Width.bytes width))) := by
  obtain ⟨haligned, -⟩ := (permitted_iff width off).mp hpermitted
  have hle : 0x400 ≤ off.toNat := by
    rw [inBuffer_iff] at hin
    omega
  have hbytes : (List.range (Width.bytes width)).map (fun j => s.bufferByte (off.toNat + j)) =
      Memory.readRange s.mem off.toNat (Width.bytes width) := by
    refine List.map_congr_left fun j hj => ?_
    rw [State.bufferByte, inBuffer_add_of_aligned haligned (List.mem_range.mp hj), if_pos hin]
  rw [hostRead_of_le hle, hbytes]

/-- R62, as an equation between the value and the bytes. -/
theorem hostRead_eq_of_toNat {p : Config.Params} {width : Width} {off : Offset} {s : State} {v : Word}
    (hin : inBuffer off.toNat = true) (hpermitted : permitted width off = true)
    (h : leNat (Memory.readRange s.mem off.toNat (Width.bytes width)) = v.toNat) : s.hostRead p width off = v := by
  rw [hostRead_of_inBuffer s hin hpermitted, h, BitVec.ofNat_toNat, BitVec.setWidth_eq]

/-- Settles O12: the little-endian value of the bytes in the range is that of the bytes laid end to end. -/
theorem bufferReadsAreLittleEndian : Obligations.BufferReadsAreLittleEndian := by
  intro p s off hin
  let b (j : Nat) : Byte := Memory.read s.mem (off.toNat + j)
  refine ⟨fun hword => hostRead_eq_of_toNat hin hword ?word, fun hhalf => hostRead_eq_of_toNat hin hhalf ?half,
    fun hbyte => hostRead_eq_of_toNat hin hbyte ?byte⟩
  case word =>
    show leNat [b 0, b 1, b 2, b 3] = (b 3 ++ b 2 ++ b 1 ++ b 0).toNat
    simp only [leNat, toNat_append_eq]
    omega
  case half =>
    show leNat [b 0, b 1] = (0#16 ++ b 1 ++ b 0).toNat
    simp only [leNat, toNat_append_eq, BitVec.toNat_ofNat, Nat.zero_mod]
    omega
  case byte =>
    show leNat [b 0] = (0#24 ++ b 0).toNat
    simp only [leNat, toNat_append_eq, BitVec.toNat_ofNat, Nat.zero_mod]
    omega

theorem State.setTxData_sameMemoryOutside (width : Width) (a : Nat) (v : Word) (s : State) :
    SameMemoryOutside a (Width.bytes width) s (s.setTxData width a v) := by
  intro b hb
  rw [State.setTxData, Memory.read_writeRange, length_leBytes, if_neg (by omega)]

theorem State.read_setTxData (width : Width) (a : Nat) (v : Word) (s : State) {j : Nat} (hj : j < Width.bytes width) :
    Memory.read (s.setTxData width a v).mem (a + j) = v.extractLsb' (8 * j) 8 := by
  rw [State.setTxData, Memory.read_writeRange, length_leBytes, if_pos (by omega), Nat.add_sub_cancel_left,
    leBytes_getD _ _ hj]

/-- R63: the access that has stored a value reads it back, cut to the access's width. -/
theorem State.hostRead_setTxData (p : Config.Params) {width : Width} {off : Offset} (v : Word) (s : State)
    (hin : inBuffer off.toNat = true) (hpermitted : permitted width off = true) :
    ((s.setTxData width off.toNat v).hostRead p width off).toNat = v.toNat % 2 ^ (8 * Width.bytes width) := by
  have hstored : Memory.readRange (s.setTxData width off.toNat v).mem off.toNat (Width.bytes width) =
      leBytes (Width.bytes width) v := by
    have h := Memory.readRange_writeRange_self s.mem off.toNat (leBytes (Width.bytes width) v)
    rwa [length_leBytes] at h
  have hlt : v.toNat % 2 ^ (8 * Width.bytes width) < 2 ^ 32 := Nat.lt_of_le_of_lt (Nat.mod_le _ _) v.isLt
  rw [hostRead_of_inBuffer _ hin hpermitted, hstored, leNat_leBytes, BitVec.toNat_ofNat, Nat.mod_eq_of_lt hlt]

/-- Settles O11: unlocked, the write is `setTxData`, whose stored bytes, frame and read-back are its own laws. -/
theorem transmitBufferReadsBackWhatIsWritten : Obligations.TransmitBufferReadsBackWhatIsWritten := by
  intro p s width off v hidle hfatal hpermitted hlow hhigh
  have htx : inTx off.toNat = true := (inTx_iff _).mpr ⟨hlow, by omega⟩
  have hin : inBuffer off.toNat = true := (inBuffer_iff _).mpr (.inl ⟨hlow, by omega⟩)
  have hwrite : hostAccess p (.write width off v) s = .next (s.setTxData width off.toNat v) := by
    rw [hostAccess_write_of_permitted hpermitted, hostWrite_of_le hlow, if_pos htx,
      State.configure_of_not (State.locked_eq_false hidle hfatal)]
  exact ⟨_, hwrite, fun j hj => s.read_setTxData width off.toNat v hj, s.setTxData_sameMemoryOutside width off.toNat v,
    rfl, s.hostRead_setTxData p v hin hpermitted⟩

end Sys2Proof.Machine

/-! SUPPORT. Register accesses by name (10_state.md R22 to R29, 20_memory.md R65, 30_encoding.md R93, R95): what each
changes, where the fields of STATUS and RESULT stand, and the obligations about them. -/

namespace Sys2Proof.Machine

/-! ## Writes -/

section Unlocked

variable {s : State} (hidle : s.seq = .idle) (hfatal : s.fatal = false)
include hidle hfatal

theorem hostAccess_wr_cmd (p : Config.Params) (w : Word) : hostAccess p (wr .cmd w) s = .next (s.accept w) := by
  rw [hostAccess_wr]
  exact congrArg _ (State.writeCmd_of_not (State.locked_eq_false hidle hfatal) w)

theorem State.configure_of_idle (f : State → State) : s.configure f = f s :=
  State.configure_of_not (State.locked_eq_false hidle hfatal) f

end Unlocked

/-- Settles O4: unlocked, a write to CMD is `accept`, and a legal word starts its command. -/
theorem commandWriteIsAccepted : Obligations.CommandWriteIsAccepted := by
  intro p s w i hidle hfatal hd
  rw [hostAccess_wr_cmd hidle hfatal, State.accept_of_ok hd]

/-- R95: the words that no command has. -/
theorem exists_decode_eq_error {w : Word}
    (h : opField w = 0x00#8 ∨ 0x09#8 ≤ opField w ∨ reservedField w ≠ 0#22) : ∃ e, decode w = .error e := by
  cases hd : decode w with
  | error e => exact ⟨e, rfl⟩
  | ok i =>
    obtain ⟨hreserved, hop⟩ := fields_of_decode hd
    have hrow : opField (tableMatch i) ≠ 0x00#8 ∧ ¬ 0x09#8 ≤ opField (tableMatch i) := by
      cases i <;> (simp only [tableMatch]; decide)
    rw [hop] at h
    obtain h | h | h := h
    exacts [absurd h hrow.1, absurd h hrow.2, absurd hreserved h]

/-- Settles O5: the acceptance of a word that does not decode is its end. -/
theorem illegalWordEndsAtOnce : Obligations.IllegalWordEndsAtOnce := by
  intro p s w hidle hfatal hcancel hillegal
  obtain ⟨e, hd⟩ := exists_decode_eq_error hillegal
  rw [hostAccess_wr_cmd hidle hfatal, State.accept_of_error hd, ← hidle, ← hcancel]
  rfl

/-- Settles O7: unlocked, each write is the store of its register. -/
theorem configurationWriteTakesEffect : Obligations.ConfigurationWriteTakesEffect := by
  intro p s v hidle hfatal
  simp only [hostAccess_wr, State.writeReg, State.configure_of_idle hidle hfatal, State.setCtrl, and_self]

/-- Settles O13: an access to STATUS is `writeStatus`, which clears under the mask of the value. -/
theorem statusBitsClearByWritingOne : Obligations.StatusBitsClearByWritingOne := by
  intro p s v
  refine ⟨s.writeStatus v, hostAccess_wr p .status v s, rfl, ?done, ?ovr⟩
  case done => rw [State.writeStatus]; cases v.getLsbD 1 <;> simp
  case ovr => rw [State.writeStatus]; cases v.getLsbD 5 <;> simp

/-! ## Reads -/

/-- Settles O9: a read that answers is a permitted one, and notes its value. -/
theorem hostReadsHaveNoSideEffect : Obligations.HostReadsHaveNoSideEffect := by
  intro p s t width off h
  cases hpermitted : permitted width off with
  | true =>
    rw [hostAccess_read_of_permitted hpermitted] at h
    cases h
    rfl
  | false =>
    rw [hostAccess_read_of_not hpermitted] at h
    cases h

section Bits

variable {n : Nat} (x : BitVec n) (b : Bool)

theorem getLsbD_append_ofBool_zero : (x ++ BitVec.ofBool b).getLsbD 0 = b := by
  rw [BitVec.getLsbD_append]
  cases b <;> rfl

theorem getLsbD_append_ofBool_succ (j : Nat) : (x ++ BitVec.ofBool b).getLsbD (j + 1) = x.getLsbD j := by
  simp [BitVec.getLsbD_append]

end Bits

/-- R24: the one-bit fields of STATUS. -/
theorem State.statusWord_bits (s : State) :
    s.statusWord.getLsbD 0 = s.busy ∧ s.statusWord.getLsbD 1 = s.done ∧ s.statusWord.getLsbD 2 = s.connected ∧
    s.statusWord.getLsbD 3 = s.flip ∧ s.statusWord.getLsbD 4 = s.fatal ∧ s.statusWord.getLsbD 5 = s.ovr := by
  unfold State.statusWord
  refine ⟨getLsbD_append_ofBool_zero _ _, ?done, ?connected, ?flip, ?fatal, ?ovr⟩
  case done => rw [getLsbD_append_ofBool_succ, getLsbD_append_ofBool_zero]
  case connected =>
    iterate 2 rw [getLsbD_append_ofBool_succ]
    exact getLsbD_append_ofBool_zero _ _
  case flip =>
    iterate 3 rw [getLsbD_append_ofBool_succ]
    exact getLsbD_append_ofBool_zero _ _
  case fatal =>
    iterate 4 rw [getLsbD_append_ofBool_succ]
    exact getLsbD_append_ofBool_zero _ _
  case ovr =>
    iterate 5 rw [getLsbD_append_ofBool_succ]
    exact getLsbD_append_ofBool_zero _ _

/-- R24 to R26: the wider fields of STATUS. -/
theorem State.statusWord_fields (s : State) :
    s.statusWord.extractLsb' 6 3 = s.hsState.code ∧ s.statusWord.extractLsb' 9 2 = s.rxState.code ∧
    s.statusWord.extractLsb' 11 21 = 0 := by
  unfold State.statusWord
  refine ⟨?hs, ?rx, ?reserved⟩
  case hs =>
    iterate 6 rw [BitVec.extractLsb'_append_eq_of_le (by decide)]
    exact extractLsb'_append_right _ _
  case rx =>
    iterate 7 rw [BitVec.extractLsb'_append_eq_of_le (by decide)]
    exact extractLsb'_append_right _ _
  case reserved =>
    iterate 7 rw [BitVec.extractLsb'_append_eq_of_le (by decide)]
    exact extractLsb'_append_left _ _

/-- R27 to R29: the fields of RESULT. -/
theorem State.resultWord_fields (s : State) :
    s.resultWord.extractLsb' 0 8 = s.errCode.code ∧ s.resultWord.extractLsb' 8 4 = s.outcome.code ∧
    s.resultWord.extractLsb' 12 4 = s.fatalCause.code ∧ s.resultWord.extractLsb' 16 8 = s.lastOp ∧
    s.resultWord.extractLsb' 24 8 = 0 := by
  unfold State.resultWord
  refine ⟨extractLsb'_append_right _ _, ?outcome, ?cause, ?lastOp, ?reserved⟩
  case outcome =>
    rw [BitVec.extractLsb'_append_eq_of_le (by decide)]
    exact extractLsb'_append_right _ _
  case cause =>
    iterate 2 rw [BitVec.extractLsb'_append_eq_of_le (by decide)]
    exact extractLsb'_append_right _ _
  case lastOp =>
    iterate 3 rw [BitVec.extractLsb'_append_eq_of_le (by decide)]
    exact extractLsb'_append_right _ _
  case reserved =>
    iterate 3 rw [BitVec.extractLsb'_append_eq_of_le (by decide)]
    exact extractLsb'_append_left _ _

/-- Settles O16: by the fields of the two words, and by each enumerated field's code. -/
theorem statusAndResultFields : Obligations.StatusAndResultFields := by
  intro p s st rs
  have hst : st = s.statusWord := hostRead_reg p .status s
  have hrs : rs = s.resultWord := hostRead_reg p .result s
  obtain ⟨hbusy, hdone, hconnected, hflip, hfatal, hovr⟩ := s.statusWord_bits
  obtain ⟨hhs, hrx, hreserved⟩ := s.statusWord_fields
  obtain ⟨herr, houtcome, hcause, hlastOp, hreserved'⟩ := s.resultWord_fields
  rw [hst, hrs]
  refine ⟨by rw [hbusy]; exact s.busy_iff, hdone, hconnected, hflip, hfatal, hovr, hreserved, ?hs, ?rx, ?err, ?outcome,
    ?cause, hlastOp, hreserved'⟩
  case hs => rw [hhs]; cases s.hsState <;> rfl
  case rx => rw [hrx]; cases s.rxState <;> rfl
  case err => rw [herr]; cases s.errCode <;> rfl
  case outcome => rw [houtcome]; cases s.outcome <;> rfl
  case cause => rw [hcause]; cases s.fatalCause <;> rfl

/-! ## The interrupt -/

/-- Settles O15: `irq` reads DONE and FATAL, which each of the four ends and writes sets or clears. -/
theorem interruptFollowsCompletion : Obligations.InterruptFollowsCompletion := by
  intro p s
  refine ⟨rfl, fun err out => ?finished, fun cause => ?fatal, fun hfatal => ?acknowledged,
    fun hfatal hidle i => ?accepted⟩
  case finished => simp [State.irq]
  case fatal => simp [State.irq]
  case acknowledged =>
    exact ⟨_, hostAccess_wr p .status _ s, by simp [State.irq, State.writeReg, State.writeStatus, hfatal]⟩
  case accepted =>
    refine ⟨_, hostAccess_wr_cmd hidle hfatal p _, ?_⟩
    rw [State.accept_of_ok (decode_encode i)]
    simp [State.irq, hfatal]

end Sys2Proof.Machine

/-! SUPPORT. The lines of ENCODE (40_frame_codec.md R130), and the obligations about them. -/

namespace Sys2Proof.Machine

section EncodeLines

variable {s : State} {w : Word}

theorem exec_encode_oversize (hs : s.seq = .running w .start) (hnone : s.txStream s.ackEn = none) :
    exec .encode s = .next (s.finish .oversizeMessage .none) := by
  show execEncode _ = _
  rw [execEncode, hs]
  simp only [hnone]

theorem exec_encode_stored {ps : List Bytes} (hs : s.seq = .running w .start) (hps : s.txStream s.ackEn = some ps) :
    exec .encode s = .next ((s.storePkt ps).movedTo w (.finishing .none .none)) := by
  show execEncode _ = _
  rw [execEncode, hs]
  simp only [hps]
  exact congrArg _ (State.goto_eq_movedTo (s := s.storePkt ps) hs _)

theorem exec_encode_finishing {err : ErrCode} {outcome : Reply} (hs : s.seq = .running w (.finishing err outcome)) :
    exec .encode s = .next (s.finish err outcome) := by
  show execEncode _ = _
  rw [execEncode, hs]

end EncodeLines

/-- Settles O23: a message that long has no stream. -/
theorem encodeRefusesAnOversizeMessage : Obligations.EncodeRefusesAnOversizeMessage := by
  intro s w hs hlong
  exact ⟨exec_encode_oversize hs ((encodeStream_eq_none_iff ..).mpr hlong), State.finish_ended hs _ _⟩

/-- Settles O22: the first line is `StorePkt` of the stream, whose packets, count and frame are its own laws. -/
theorem encodeStoresTheStream : Obligations.EncodeStoresTheStream := by
  intro s w hs hfits
  obtain ⟨ps, hps⟩ := State.exists_encodeStream hfits
  obtain ⟨-, -, h16, hlength⟩ := encodeStream_length hps
  exact ⟨ps, _, hps, exec_encode_stored hs hps, fun i hi => s.packet_storePkt hlength h16 hi,
    s.storePkt_pktCount_toNat h16, s.storePkt_sameMemoryOutside ps, rfl, exec_encode_finishing (w := w) rfl⟩

end Sys2Proof.Machine

/-! SUPPORT. What a received string's bytes mean to the stream (41_reassembly.md R157, 30_encoding.md R105), how CONSUME
and a failed Recv end (41_reassembly.md R150, R152, R171), and the obligations about them. -/

namespace Sys2Proof.Machine

/-! ## The bytes that a received string is read for -/

/-- R157: of the control byte only PLEN is read. -/
theorem rxPacket_congr_controlByte {strict : Bool} {sc : Scratch} {b c : Byte} {rest : Bytes} (h : plenOf b = plenOf c) :
    rxPacket strict sc (b :: rest) = rxPacket strict sc (c :: rest) := by
  simp only [rxPacket, Scratch.takeFirst, Scratch.takeNext, leHalf, List.getD_cons_zero, List.getD_cons_succ,
    List.length_cons, List.drop_succ_cons, h]

theorem leHalf_append {b : Bytes} (pad : Bytes) {i : Nat} (h : i + 2 ≤ b.length) : leHalf (b ++ pad) i = leHalf b i := by
  rw [leHalf, leHalf, List.getD_append _ _ _ _ (by omega), List.getD_append _ _ _ _ (by omega)]

theorem take_drop_append {b : Bytes} (pad : Bytes) {m n : Nat} (h : m + n ≤ b.length) :
    ((b ++ pad).drop m).take n = (b.drop m).take n := by
  rw [List.drop_append_of_le_length (by omega), List.take_append_of_le_length (by rw [List.length_drop]; omega)]

theorem Scratch.takeFirst_append (sc : Scratch) {b : Bytes} (pad : Bytes) {plen : Nat} {idx tot : BitVec 4}
    (hsix : 6 ≤ b.length) (hfits : 2 + plen ≤ b.length) :
    sc.takeFirst (b ++ pad) plen idx tot = sc.takeFirst b plen idx tot := by
  have hdata : ((b ++ pad).drop 6).take (plen - 4) = (b.drop 6).take (plen - 4) := take_drop_append pad (by omega)
  simp only [Scratch.takeFirst, Config.subHdr, hdata, leHalf_append pad (show 2 + 2 ≤ b.length by omega),
    leHalf_append pad (show 4 + 2 ≤ b.length by omega)]

theorem Scratch.takeNext_append (sc : Scratch) {b : Bytes} (pad : Bytes) {plen : Nat} {idx : BitVec 4}
    (hfits : 2 + plen ≤ b.length) : sc.takeNext (b ++ pad) plen idx = sc.takeNext b plen idx := by
  simp only [Scratch.takeNext, take_drop_append pad hfits]

/-- R105, R160: what follows the declared payload, and in a first packet the sub-header, is not read. -/
theorem rxPacket_append {strict : Bool} {sc : Scratch} {b : Bytes} (pad : Bytes) (hlength : 2 ≤ b.length)
    (hfits : 2 + plenOf (b.getD 0 0) ≤ b.length) (hfirst : sc.first = true → 6 ≤ b.length) :
    rxPacket strict sc (b ++ pad) = rxPacket strict sc b := by
  have h0 : (b ++ pad).getD 0 0 = b.getD 0 0 := List.getD_append _ _ _ _ (by omega)
  have h1 : (b ++ pad).getD 1 0 = b.getD 1 0 := List.getD_append _ _ _ _ (by omega)
  by_cases hplen : plenOf (b.getD 0 0) ≤ 62
  · have hgood : ¬ BadPacket sc.first b := not_badPacket hlength hplen hfits hfirst
    have hgood' : ¬ BadPacket sc.first (b ++ pad) := by
      rw [← h0] at hplen hfits
      refine not_badPacket ?_ hplen ?_ fun h => ?_ <;> rw [List.length_append]
      · omega
      · omega
      · have := hfirst h
        omega
    rw [rxPacket_of_not_bad hgood, rxPacket_of_not_bad hgood', h0, h1, Scratch.takeNext_append sc pad hfits]
    cases hf : sc.first with
    | true => rw [Scratch.takeFirst_append sc pad (hfirst hf) hfits]
    | false => rfl
  · have hlong : 62 < plenOf (b.getD 0 0) := Nat.lt_of_not_le hplen
    rw [rxPacket_bad (.inr (.inl hlong)), rxPacket_bad (.inr (.inl (by rwa [h0])))]

/-- Settles O33: of the control byte PLEN alone is read, and nothing behind the bytes that PLEN declares. -/
theorem flipAckAndPaddingOfReceivedPacketsAreIgnored : Obligations.FlipAckAndPaddingOfReceivedPacketsAreIgnored := by
  refine ⟨fun strict sc b c rest => rxPacket_congr_controlByte, fun strict sc b pad pad' hsix hlength => ?first,
    fun strict sc b pad pad' hfirst hlength => ?continuation⟩
  case first =>
    have ignored (pad : Bytes) : rxPacket strict sc (b ++ pad) = rxPacket strict sc b :=
      rxPacket_append pad (by omega) (by omega) fun _ => hsix
    rw [ignored pad, ignored pad']
  case continuation =>
    have ignored (pad : Bytes) : rxPacket strict sc (b ++ pad) = rxPacket strict sc b :=
      rxPacket_append pad (by omega) (by omega) fun h => by rw [hfirst] at h; cases h
    rw [ignored pad, ignored pad']

/-! ## CONSUME's lines outside Reassemble -/

theorem exec_consume_reassembled {eot : Bool} {s : State} {w : Word} {o : RxOutcome}
    (hs : s.seq = .running w (.reassembled o)) : exec (.consume eot) s = .next (s.endConsume o) := by
  show consumeLine _ _ _ = _
  rw [consumeLine, hs]

theorem exec_consume_refused {eot : Bool} {s : State} {w : Word} (hs : s.seq = .running w .start)
    (h : s.connected = false) : exec (.consume eot) s = .next (s.finish .notConnected .none) := by
  show consumeLine _ _ _ = _
  rw [consumeLine, hs]
  exact congrArg _ (if_neg (by rw [h]; exact Bool.false_ne_true))

/-- Settles O31: by the first line's test of the session, and by what Reassemble has returned. -/
theorem consumeEndsByItsReassembly : Obligations.ConsumeEndsByItsReassembly := by
  intro eot s w
  refine ⟨exec_consume_refused, fun hs hconnected => ?started, exec_consume_reassembled, exec_consume_reassembled,
    exec_consume_reassembled, fun c => exec_consume_reassembled⟩
  case started =>
    rw [exec_consume_start hs hconnected]
    exact congrArg _ (State.goto_of_running (w := w) (pos := .start) (by exact hs) _)

/-! ## A failed Recv of Reassemble -/

theorem exec_receiving {eot : Bool} {i : Instr} {s : State} {w : Word} (hi : i = .consume eot ∨ ∃ arg, i = .request arg eot)
    (hs : s.seq = .running w .receiving) : exec i s = .next (s.receivePacket eot) := by
  obtain rfl | ⟨arg, rfl⟩ := hi
  · rw [exec_consume_reassemble hs rfl, reassembleLine]
  · rw [exec_request_reassemble hs rfl, reassembleLine]

theorem State.receivePacket_timeout {s : State} (ha : s.recvAnswer = .timeout) (eot : Bool) :
    s.receivePacket eot = (s.received s.readTimeout).recvFailed eot .rxTimeout State.noMessage := by
  rw [State.receivePacket, ha]

theorem State.receivePacket_ioerr {s : State} (ha : s.recvAnswer = .ioerr) (eot : Bool) :
    s.receivePacket eot = (s.received s.readTimeout).recvFailed eot .rxIoErr State.noMessage := by
  rw [State.receivePacket, ha]

/-- Settles O30: by the Transport's answer, and by the policy for a failed Recv. -/
theorem failedReceiveFollowsThePolicy : Obligations.FailedReceiveFollowsThePolicy := by
  intro eot i s w hi hs after
  rw [exec_receiving hi hs]
  refine ⟨?fatalTimeout, ?fatalIoErr, ?soft⟩
  case fatalTimeout =>
    rintro rfl ha
    rw [State.receivePacket_timeout ha, State.recvFailed, if_pos rfl]
  case fatalIoErr =>
    rintro rfl ha
    rw [State.receivePacket_ioerr ha, State.recvFailed, if_pos rfl]
  case soft =>
    have noMessage : after.noMessage = { after with rxState := .awaitFirstPacket, seq := .running w (.reassembled .noMsg) } :=
      State.goto_of_running (s := after.setRx .awaitFirstPacket) hs _
    rintro rfl (ha | ha)
    · rw [State.receivePacket_timeout ha, State.recvFailed, if_neg Bool.false_ne_true, noMessage]
    · rw [State.receivePacket_ioerr ha, State.recvFailed, if_neg Bool.false_ne_true, noMessage]

end Sys2Proof.Machine

/-! SUPPORT. SEND_ONLY as a whole, the answer to a Send of the stream, and the retry bound (43_coordinator.md R212, R217,
R218, R225), with the obligations about them. -/

namespace Sys2Proof.Machine

/-! ## The answer to a Send -/

/-- Settles O37: by the Transport's answer, and by the policy for a failed Send. -/
theorem sendAnswerDecidesTheTransmission : Obligations.SendAnswerDecidesTheTransmission := by
  intro eot i s w j hi hs after
  rw [exec_transmitLine hi hs rfl nofun, transmitLine, State.sendPacket]
  refine ⟨fun ha => ?sent, fun ha heot => ?fatal, fun ha heot => ?soft⟩
  case sent =>
    rw [ha]
    exact congrArg _ (State.goto_of_running (s := after) hs _)
  case fatal =>
    rw [ha, heot]
    rfl
  case soft =>
    rw [ha, heot]
    rfl

/-! ## The retry bound -/

theorem exec_request_busy_exhausted {arg eot : Bool} {s : State} {w : Word} {r : BusyReply}
    (hs : s.seq = .running w (.busy r)) (h : s.retryLimit ≠ 0 ∧ s.retryLimit.toNat ≤ s.retryCount.toNat) :
    exec (.request arg eot) s = .next (s.finish .retryExhausted r.outcome) := by
  rw [exec_request_busy hs, State.retryOrGiveUp, if_pos (s.retriesExhausted_iff.mpr h)]

/-- R218: RETRY_COUNT adds 1, and stays at its greatest value. -/
theorem State.countRetry_retryCount (s : State) :
    s.countRetry.retryCount.toNat = min (s.retryCount.toNat + 1) 0xFFFFFFFF := by
  show (if s.retryCount = BitVec.allOnes 32 then s.retryCount else s.retryCount + 1).toNat = _
  split_ifs with hmax
  · rw [hmax]
    decide
  · have hne : s.retryCount.toNat ≠ 0xFFFFFFFF := fun h => hmax (BitVec.eq_of_toNat_eq h)
    bv_omega

/-- Settles O41: by the test of the bound, and by the two lines of a restart. -/
theorem retryBoundAndCount : Obligations.RetryBoundAndCount := by
  intro arg eot s w
  refine ⟨fun r hs => ⟨fun h => ?exhausted, exec_request_busy_of_left hs⟩, exec_request_backingOff, fun hs => ?counted⟩
  case exhausted =>
    rw [exec_request_busy_exhausted hs h]
    cases r <;> rfl
  case counted =>
    exact ⟨_, exec_request_countRetry hs, s.countRetry_retryCount,
      State.goto_of_running (w := w) (pos := .countRetry) (by exact hs) _⟩

/-! ## SEND_ONLY -/

theorem exec_sendOnly_transmitted {eot : Bool} {s : State} {w : Word} (hs : s.seq = .running w .transmitted) :
    exec (.sendOnly eot) s = .next (s.finish .none .none) := by
  show execSendOnly _ _ = _
  rw [execSendOnly, hs]

/-- The state at the head of SEND_ONLY's transmission, the stream `ps` stored and FLIP advanced (R211). -/
def State.sendReady (w : Word) (ps : List Bytes) (s : State) : State :=
  { s.storePkt ps with flip := !s.flip, seq := .running w (.transmit 0) }

theorem RunsTo.sendReady {eot : Bool} {s : State} {w : Word} {ps : List Bytes} (hd : decode w = .ok (.sendOnly eot))
    (hs : s.seq = .running w .start) (hconnected : s.connected = true)
    (hps : encodeStream s.txCommand s.txLength s.txPayload s.flip s.ackEn = some ps) :
    RunsTo s (s.sendReady w ps) := by
  have start : exec (.sendOnly eot) s = .next (s.streamStored w s.cmd0 ps) := by
    rw [exec_sendOnly_start hs, State.startSending_of_stream hs hconnected hps]
  exact RunsTo.head hs hd start (RunsTo.head rfl hd (exec_sendOnly_advance rfl) (RunsTo.refl _))

/-- R212: the stored stream is sent whole, and SEND_ONLY ends. -/
theorem RunsTo.sendOnlyStream {eot : Bool} {s : State} {w : Word} {rest : List SendAnswer}
    (hd : decode w = .ok (.sendOnly eot)) (hs : s.seq = .running w (.transmit 0)) (hcancel : s.cancelPend = false)
    (hsend : s.sendAnswers = List.replicate s.pktCount.toNat .ok ++ rest) :
    RunsTo s ((s.streamSent rest).finish .none .none) := by
  have transmission : RunsTo s ((s.streamSent rest).movedTo w .transmitted) := by
    have h := RunsTo.transmit (.inl rfl) hd _ hs hcancel hsend (Nat.zero_add _)
    rwa [← List.range_eq_range'] at h
  refine transmission.trans (RunsTo.head rfl hd (exec_sendOnly_transmitted rfl) (RunsTo.of_eq ?_))
  rw [State.finish_of_running (w := w) (pos := .transmitted) rfl, State.finish_of_running (s := s.streamSent rest) hs]
  rfl

/-- Settles O38: the command is the run to its transmission, which stores the stream, and the transmission. -/
theorem sendOnlySendsTheWholeStream : Obligations.SendOnlySendsTheWholeStream := by
  intro eot s w rest hd hs hconnected hcancel hfits hsend
  obtain ⟨ps, hps⟩ := State.exists_encodeStream hfits
  obtain ⟨hpackets, -, h16, h64⟩ := encodeStream_length hps
  have hstored : (s.sendReady w ps).storedPackets = ps := s.storedPackets_storePkt h64 h16
  have hready : (s.sendReady w ps).pktCount.toNat = ps.length := s.storePkt_pktCount_toNat h16
  obtain ⟨-, hop⟩ := fields_of_decode hd
  have hlast : opField w = 0x06 := hop
  rw [← hpackets, ← hready] at hsend
  have sent := RunsTo.sendOnlyStream hd (s := s.sendReady w ps) rfl hcancel hsend
  refine ⟨ps, _, hps, (RunsTo.sendReady hd hs hconnected hps).trans sent,
    State.finish_ended (pos := .transmit 0) rfl _ _, ?trace, fun j hj => s.packet_storePkt h64 h16 hj,
    s.storePkt_sameMemoryOutside ps, ?frame⟩
  case trace =>
    show s.trace ++ sendEvents s.settle (s.sendReady w ps).storedPackets = _
    rw [hstored]
  case frame =>
    rw [← hlast, hcancel]
    rfl

end Sys2Proof.Machine

/-! SUPPORT. CONNECT over a Transport that lets nothing through (44_handshake.md R243, R257): ten failed markers, and an
echo wait that only times out, with the obligations about them. -/

namespace Sys2Proof.Machine

/-! ## Ten failed markers -/

/-- R243: the tenth failed marker. -/
theorem exec_connect_marker_last {s : State} {w : Word} (hs : s.seq = .running w .markerSending)
    (ha : s.sendAnswer = .err) (hlast : s.hsAttempts.toNat = 10) :
    exec .connect s = .next (((s.sent marker).setHs .failed).movedTo w (.finishing .linkDown .none)) := by
  show connectLine _ _ = _
  rw [connectLine, hs]
  simp only [State.sendMarker, ha, Config.markerAttempts, if_pos hlast]
  exact congrArg _ (State.goto_eq_movedTo (s := (s.sent marker).setHs .failed) hs _)

/-- The state in which CONNECT has ended at a failed marker, the answers `rest` left. -/
def State.linkDown (w : Word) (rest : List SendAnswer) (s : State) : State :=
  { s with
    hsState := .failed
    hsAttempts := s.hsAttempts + 1
    sendAnswers := rest
    trace := s.trace ++ [.send marker (some .err)]
    errCode := .linkDown
    outcome := .none
    fatalCause := .none
    lastOp := opField w
    done := true
    cancelPend := false
    seq := .idle }

theorem RunsTo.linkDown {s : State} {w : Word} {rest : List SendAnswer} (hd : decode w = .ok .connect)
    (hs : s.seq = .running w .markerCheck) (hcancel : s.cancelPend = false) (hsend : s.sendAnswers = .err :: rest)
    (hlast : s.hsAttempts.toNat = 9) : RunsTo s (s.linkDown w rest) := by
  have hcount : (s.hsAttempts + 1).toNat = 10 := by bv_omega
  refine RunsTo.connectChecks hd .marker hs hcancel (RunsTo.connectStores hd .markerCount rfl
    (RunsTo.head rfl hd (exec_connect_marker_last rfl (State.sendAnswer_of_cons hsend) hcount)
      (RunsTo.head rfl hd (exec_connect_finishing rfl) (RunsTo.of_eq ?_))))
  rw [State.sent_of_cons (rest := rest) (by exact hsend)]
  simp [State.linkDown, State.finish, State.movedTo, State.setHs]

/-- Settles O44: nine failed markers, and the tenth ends the command. -/
theorem tenFailedMarkersAreLinkDown : Obligations.TenFailedMarkersAreLinkDown := by
  intro s w rest hd hs hsession hfits hcancel hsend
  have entered := RunsTo.handshakeEntered hd hs hsession hfits
  have failed := RunsTo.markersFailed hd 9 (s := s.handshakeEntered w) (rest := .err :: rest) rfl hcancel hsend (le_refl 9)
  have ended := RunsTo.linkDown hd (s := (s.handshakeEntered w).markersFailed w 9 (.err :: rest)) rfl hcancel rfl rfl
  obtain ⟨-, hop⟩ := fields_of_decode hd
  have hlast : opField w = 0x07 := hop
  rw [← hlast, ← List.append_assoc]
  exact entered.trans (failed.trans ended)

/-! ## An echo wait that times out -/

/-- One read that times out, as two turns of the sequencer. -/
theorem sequencerRun_echo_timeout {s : State} {w : Word} {aux : Bool} {rest : List RecvAnswer}
    (hd : decode w = .ok .connect) (hs : s.seq = .running w (echoCheck aux)) (hcancel : s.cancelPend = false)
    (hrecv : s.recvAnswers = .timeout :: rest) :
    sequencerRun 2 s = .next (s.echoDrained w aux .timeout rest) := by
  have hanswer : (s.movedTo w (echoReceiving aux)).recvAnswer = .timeout := State.recvAnswer_of_cons hrecv
  have checked := exec_connect_checks (.echo aux) hs hcancel
  have drained := exec_connect_echo_drained (s := s.movedTo w (echoReceiving aux)) rfl (by rw [hanswer]; nofun)
    (by rw [hanswer]; nofun)
  calc sequencerRun 2 s
      = sequencerRun 1 (s.movedTo w (echoReceiving aux)) :=
        sequencerRun_succ ((sequencerStep_of_decode hs hd).trans checked) 1
    _ = sequencerRun 0 _ := sequencerRun_succ ((sequencerStep_of_decode rfl hd).trans drained) 0
    _ = .next (s.echoDrained w aux .timeout rest) := by
        rw [State.received_of_cons (rest := rest) (by exact hrecv)]
        rfl

/-- R257, in either wait. -/
theorem sequencerRun_echo_timeouts {w : Word} {aux : Bool} {rest : List RecvAnswer} (hd : decode w = .ok .connect) (n : Nat)
    {s : State} (hs : s.seq = .running w (echoCheck aux)) (hcancel : s.cancelPend = false)
    (hrecv : s.recvAnswers = List.replicate n .timeout ++ rest) :
    sequencerRun (2 * n) s = .next { s with
      recvAnswers := rest
      trace := s.trace ++ List.replicate n (.recv s.hsTimeout (some .timeout)) } := by
  induction n generalizing s with
  | zero =>
    have hrest : s.recvAnswers = rest := hrecv
    rw [← hrest, List.replicate_zero, List.append_nil]
    rfl
  | succ n ih =>
    have first := sequencerRun_echo_timeout (rest := List.replicate n RecvAnswer.timeout ++ rest) hd hs hcancel hrecv
    have others := ih (s := s.echoDrained w aux .timeout (List.replicate n .timeout ++ rest)) rfl hcancel rfl
    rw [Nat.mul_succ, Nat.add_comm, sequencerRun_add first, others, List.replicate_succ, ← List.singleton_append,
      ← List.append_assoc, hs]
    rfl

/-- Settles O48: in either wait, by induction on the number of reads. -/
theorem echoWaitHasNoBound : Obligations.EchoWaitHasNoBound := by
  intro n s w rest hd hs hcancel hrecv
  obtain hs | hs := hs
  · exact sequencerRun_echo_timeouts (aux := true) hd n hs hcancel hrecv
  · exact sequencerRun_echo_timeouts (aux := false) hd n hs hcancel hrecv

end Sys2Proof.Machine

/-! SUPPORT. One step as one turn of one agent (20_memory.md R68), the platform's reset (70_reset_and_hazards.md R320), and
the obligations about them. -/

namespace Sys2Proof.Machine

section Turns

variable {s : State}

theorem step_of_sequencer (h : s.nextTurn = .sequencer) : step s = sequencerStep s.takeTurn := by
  rw [step, h]

theorem step_of_host {a : HostAccess} (h : s.nextTurn = .host a) : step s = hostAccess Config.params a s.takeTurn := by
  rw [step, h]

theorem step_of_reset (h : s.nextTurn = .reset) : step s = .next s.takeTurn.platformReset := by
  rw [step, h]

theorem sequencerStep_of_idle (h : s.seq = .idle) : sequencerStep s = .next s := by
  rw [sequencerStep, h]

end Turns

/-- Settles O18: by whose turn it is, and in the sequencer's by SEQ. -/
theorem stepRunsTheDecodedCommand : Obligations.StepRunsTheDecodedCommand := by
  refine ⟨fun s w pos i hturn hs hd => ?line, fun s => step_of_reset, fun s hturn hidle => ?idle,
    fun s a => step_of_host, fun s w i hd => ?fetched⟩
  case line =>
    rw [step_of_sequencer hturn]
    exact sequencerStep_of_decode hs hd
  case idle =>
    rw [step_of_sequencer hturn]
    exact sequencerStep_of_idle hidle
  case fetched =>
    have hword : BitVec.ofNat 32 (w.toNat % 2 ^ 32) = w := by
      rw [Nat.mod_eq_of_lt w.isLt, BitVec.ofNat_toNat, BitVec.setWidth_eq]
    rw [State.withFetchWord, hword, State.accept_of_ok hd, step_of_sequencer rfl, sequencerStep_of_decode rfl hd]
    rfl

/-- Every register after a reset, as the host reads it (10_state.md R52). -/
theorem State.platformReset_readReg (s : State) (r : Reg) :
    s.platformReset.readReg Config.params r = State.reset.readReg Config.params r := by
  cases r <;> rfl

/-- Settles O17: the block's state after a reset is `State.reset`, and the rest goes by the call in progress. -/
theorem resetLeavesTheResetTable : Obligations.ResetLeavesTheResetTable := by
  intro s hturn
  have hcall : s.takeTurn.pendingCall = s.pendingCall := rfl
  refine ⟨_, step_of_reset hturn, fun r => ?registers, fun a => rfl, rfl, rfl, rfl, fun h => ?noCall, fun b h => ?send,
    fun x h => ?recv⟩
  case registers => rw [State.platformReset_readReg]; cases r <;> rfl
  all_goals
    rw [← hcall] at h
    simp [State.platformReset, h, cutEvent]

end Sys2Proof.Machine

/-! SUPPORT. What one line of a command can do (log 4): the stores it makes, and how it leaves the command. `Line` lists
the cases once, with the facts that lead to each, and `exec_line` says that they are all. -/

namespace Sys2Proof.Machine

/-! ## How a line leaves its command -/

/-- A line goes on at a position, or ends the command by `finish` (60_exceptions.md R284) or by fatal entry (R287). -/
inductive Leave where
  | goto (pos : Pos)
  | finish (err : ErrCode) (outcome : Reply)
  | fatal (cause : FatalCause)

/-- The state after a line, from the state with the line's own stores made. -/
def State.leave (how : Leave) (u : State) : State :=
  match how with
  | .goto pos => u.goto pos
  | .finish err outcome => u.finish err outcome
  | .fatal cause => u.raiseFatal cause

/-- `t` is the next state of a line whose stores and whose end `R` allows. -/
def LeavesBy (R : State → Leave → Prop) (t : State) : Prop := ∃ u how, R u how ∧ t = u.leave how

theorem LeavesBy.imp {R R' : State → Leave → Prop} {t : State} (h : LeavesBy R t) (himp : ∀ u how, R u how → R' u how) :
    LeavesBy R' t := by
  obtain ⟨u, how, hline, rfl⟩ := h
  exact ⟨u, how, himp u how hline, rfl⟩

/-! ## CheckCancel -/

/-- `CheckCancel` before `next`, by its scope (60_exceptions.md R301). -/
inductive Checks (s : State) (next : Pos) : CancelScope → State → Leave → Prop
  | onward (scope : CancelScope) : Checks s next scope s (.goto next)
  | plain : Checks s next .plain s (.finish .cancelled .none)
  | handshake : Checks s next .handshake (s.setHs .failed) (.goto (.finishing .cancelled .none))
  | reassembly : Checks s next .reassembly (s.setRx .awaitFirstPacket) (.goto (.finishing .cancelled .none))

theorem State.checkCancel_leaves (s : State) (scope : CancelScope) (next : Pos) :
    LeavesBy (Checks s next scope) (s.checkCancel scope next) := by
  obtain ⟨-, h⟩ | ⟨-, h⟩ := s.checkCancel_cases scope next
  · exact ⟨_, _, .onward scope, h⟩
  · cases scope with
    | plain => exact ⟨_, _, .plain, h⟩
    | handshake => exact ⟨_, _, .handshake, h⟩
    | reassembly => exact ⟨_, _, .reassembly, h⟩

/-! ## Reassemble -/

/-- The stores at the head of Reassemble's outer loop (41_reassembly.md R151, R153). -/
def State.streamOpened (s : State) : State :=
  { s with
    rxState := .awaitFirstPacket
    scratch := { s.scratch with first := true, sum := 0, k := 0, acc := [] } }

/-- The stores of an accepted string (41_reassembly.md R160 to R162). -/
def State.packetTaken (sc : Scratch) (s : State) : State :=
  { s.received s.readTimeout with
    scratch := sc
    rxState := if s.scratch.first then .accumulatingContinuation else s.rxState }

/-- The lines of Reassemble (41_reassembly.md R151). -/
inductive ReassembleLine (s : State) : Pos → State → Leave → Prop
  | streamStart : ReassembleLine s .streamStart s.streamOpened (.goto .rxCheck)
  | rxCheck {u : State} {how : Leave} (h : Checks s .receiving .reassembly u how) : ReassembleLine s .rxCheck u how
  | rejected {b : Bytes} {code : ErrCode} (ha : s.recvAnswer = .pkt b)
      (hrx : rxPacket s.strict s.scratch b = .failed code) :
      ReassembleLine s .receiving ((s.received s.readTimeout).setRx .failed) (.goto (.reassembled (.fail code)))
  | accepted {b : Bytes} {sc : Scratch} {complete : Bool} (ha : s.recvAnswer = .pkt b)
      (hrx : rxPacket s.strict s.scratch b = .accepted sc complete) :
      ReassembleLine s .receiving (s.packetTaken sc) (.goto (if complete then .streamComplete else .rxCheck))
  | noMessage {cause : FatalCause} {after : State} (h : FailedCall s .receiving cause after) :
      ReassembleLine s .receiving (after.setRx .awaitFirstPacket) (.goto (.reassembled .noMsg))
  | failed {cause : FatalCause} {after : State} (h : FailedCall s .receiving cause after) :
      ReassembleLine s .receiving after (.fatal cause)
  | streamComplete : ReassembleLine s .streamComplete (s.setRx .complete) (.goto .validate)
  | invalid : ReassembleLine s .validate (s.setRx .failed) (.goto (.reassembled (.fail .lengthMismatch)))
  | debugMessage : ReassembleLine s .validate (s.record (.debugLine (debugUnits s.scratch.length s.scratch.acc)))
      (.goto .debugCount)
  | retry : ReassembleLine s .validate s (.goto (.reassembled .retry))
  | message : ReassembleLine s .validate (s.commit s.scratch.command s.scratch.length s.scratch.acc)
      (.goto (.reassembled .msg))
  | debugCount : ReassembleLine s .debugCount { s with dbgCount := s.dbgCount + 1 } (.goto .streamStart)

theorem State.takePacket_leaves {s : State} {b : Bytes} (ha : s.recvAnswer = .pkt b) :
    LeavesBy (ReassembleLine s .receiving) ((s.received s.readTimeout).takePacket b) := by
  unfold State.takePacket
  split
  next hrx => exact ⟨_, _, .rejected ha hrx, rfl⟩
  next hrx => exact ⟨_, _, .accepted ha hrx, rfl⟩

theorem FailedCall.receive_leaves {s after : State} {cause : FatalCause} (h : FailedCall s .receiving cause after)
    (eot : Bool) : LeavesBy (ReassembleLine s .receiving) (after.recvFailed eot cause State.noMessage) := by
  cases eot with
  | true => exact ⟨_, _, .failed h, rfl⟩
  | false => exact ⟨_, _, .noMessage h, rfl⟩

theorem State.receivePacket_leaves (eot : Bool) (s : State) :
    LeavesBy (ReassembleLine s .receiving) (s.receivePacket eot) := by
  unfold State.receivePacket
  split
  next ha => exact State.takePacket_leaves ha
  next ha => exact (FailedCall.recv (.inl rfl) (.inl ⟨ha, rfl⟩)).receive_leaves eot
  next ha => exact (FailedCall.recv (.inl rfl) (.inr ⟨ha, rfl⟩)).receive_leaves eot

theorem State.dispatchStream_leaves (p : Config.Params) (s : State) :
    LeavesBy (ReassembleLine s .validate) (s.dispatchStream p) := by
  unfold State.dispatchStream
  split_ifs
  · exact ⟨_, _, .debugMessage, rfl⟩
  · exact ⟨_, _, .retry, rfl⟩
  · exact ⟨_, _, .message, rfl⟩
  · exact ⟨_, _, .invalid, rfl⟩

theorem reassembleLine_leaves {p : Config.Params} {eot : Bool} {pos : Pos} {s t : State}
    (h : reassembleLine p eot pos s = .next t) : LeavesBy (ReassembleLine s pos) t := by
  unfold reassembleLine at h
  split at h <;> cases h
  · exact ⟨_, _, .streamStart, rfl⟩
  · exact (s.checkCancel_leaves _ _).imp fun _ _ => .rxCheck
  · exact s.receivePacket_leaves eot
  · exact ⟨_, _, .streamComplete, rfl⟩
  · exact s.dispatchStream_leaves p
  · exact ⟨_, _, .debugCount, rfl⟩

/-! ## TransmitStream -/

/-- The lines of TransmitStream (43_coordinator.md R212). -/
inductive TransmitLine (s : State) : Pos → State → Leave → Prop
  | done {i : Nat} : TransmitLine s (.transmit i) s (.goto .transmitted)
  | next {i : Nat} {u : State} {how : Leave} (hlt : i < s.pktCount.toNat) (h : Checks s (.sending i) .plain u how) :
      TransmitLine s (.transmit i) u how
  | sent {i : Nat} (ha : s.sendAnswer = .ok) : TransmitLine s (.sending i) (s.sent (s.packet i)) (.goto (.settleCheck i))
  | lost {i : Nat} (ha : s.sendAnswer = .err) :
      TransmitLine s (.sending i) (s.sent (s.packet i)) (.finish .transportError .none)
  | failed {i : Nat} {cause : FatalCause} {after : State} (h : FailedCall s (.sending i) cause after) :
      TransmitLine s (.sending i) after (.fatal cause)
  | settleCheck {i : Nat} {u : State} {how : Leave} (h : Checks s (.settling i) .plain u how) :
      TransmitLine s (.settleCheck i) u how
  | settling {i : Nat} : TransmitLine s (.settling i) (s.wait s.settle) (.goto (.transmit (i + 1)))

theorem State.sendPacket_leaves (eot : Bool) (i : Nat) (s : State) :
    LeavesBy (TransmitLine s (.sending i)) (s.sendPacket eot i) := by
  unfold State.sendPacket
  split
  next ha => exact ⟨_, _, .sent ha, rfl⟩
  next ha =>
    split_ifs
    · exact ⟨_, _, .failed (.send i ha), rfl⟩
    · exact ⟨_, _, .lost ha, rfl⟩

theorem State.transmitHead_leaves (i : Nat) (s : State) : LeavesBy (TransmitLine s (.transmit i)) (s.transmitHead i) := by
  unfold State.transmitHead
  split_ifs with hlt
  · exact (s.checkCancel_leaves _ _).imp fun _ _ => .next hlt
  · exact ⟨_, _, .done, rfl⟩

theorem transmitLine_leaves {eot : Bool} {pos : Pos} {s t : State} (h : transmitLine eot pos s = .next t) :
    LeavesBy (TransmitLine s pos) t := by
  unfold transmitLine at h
  split at h <;> cases h
  · exact s.transmitHead_leaves _
  · exact s.sendPacket_leaves eot _
  · exact (s.checkCancel_leaves _ _).imp fun _ _ => .settleCheck
  · exact ⟨_, _, .settling, rfl⟩

/-! ## The commands -/

/-- The lines of each command at each position, with the stores they make and how they leave the command. -/
inductive Line (s : State) : Instr → Pos → State → Leave → Prop
  /-- A pending `finish`, in the commands that have one. -/
  | finishing {i : Instr} (hi : ∀ eot, i ≠ .sendOnly eot) {err : ErrCode} {outcome : Reply} :
      Line s i (.finishing err outcome) s (.finish err outcome)
  | reassemble {i : Instr} (hi : (∃ eot, i = .consume eot) ∨ ∃ arg eot, i = .request arg eot) {pos : Pos} {u : State}
      {how : Leave} (h : ReassembleLine s pos u how) : Line s i pos u how
  | transmit {i : Instr} (hi : (∃ arg eot, i = .request arg eot) ∨ ∃ eot, i = .sendOnly eot) {pos : Pos} {u : State}
      {how : Leave} (h : TransmitLine s pos u how) : Line s i pos u how
  -- ENCODE (40_frame_codec.md R130)
  | encodeOversize : Line s .encode .start s (.finish .oversizeMessage .none)
  | encodeStored {ps : List Bytes} (h : s.txStream s.ackEn = some ps) :
      Line s .encode .start (s.storePkt ps) (.goto (.finishing .none .none))
  -- CONSUME (41_reassembly.md R150)
  | consumeRefused {eot : Bool} : Line s (.consume eot) .start s (.finish .notConnected .none)
  | consumeStarted {eot : Bool} (h : s.connected = true) :
      Line s (.consume eot) .start s.streamOpened (.goto .rxCheck)
  | consumed {eot : Bool} {outcome : RxOutcome} {reply : Reply} (h : ∀ code, outcome ≠ .fail code) :
      Line s (.consume eot) (.reassembled outcome) s (.finish .none reply)
  | consumeFailed {eot : Bool} {code : ErrCode} : Line s (.consume eot) (.reassembled (.fail code)) s (.finish code .none)
  -- ADVANCE and RESET_FLIP (42_sequence_controller.md R191, R193)
  | advance : Line s .advance .start s.advanceFlip (.goto (.finishing .none .none))
  | resetFlip {arg : Bool} : Line s (.resetFlip arg) .start { s with flip := arg } (.goto (.finishing .none .none))
  -- REQUEST and SEND_ONLY (43_coordinator.md R210, R211, R225)
  | sendRefused {i : Instr} (hi : (∃ arg eot, i = .request arg eot) ∨ ∃ eot, i = .sendOnly eot) :
      Line s i .start s (.finish .notConnected .none)
  | sendOversize {i : Instr} (hi : (∃ arg eot, i = .request arg eot) ∨ ∃ eot, i = .sendOnly eot) :
      Line s i .start s (.finish .oversizeMessage .none)
  | requestStored {arg eot : Bool} {ps : List Bytes} (hconnected : s.connected = true)
      (h : s.txStream s.ackEn = some ps) :
      Line s (.request arg eot) .start (({ s with cmd0 := s.txCommand } : State).storePkt ps) (.goto .advance)
  | sendOnlyStored {eot : Bool} {ps : List Bytes} (hconnected : s.connected = true) (h : s.txStream s.ackEn = some ps) :
      Line s (.sendOnly eot) .start (s.storePkt ps) (.goto .advance)
  | requestAdvanced {arg eot : Bool} : Line s (.request arg eot) .advance s.advanceFlip (.goto .clearRetries)
  | sendOnlyAdvanced {eot : Bool} : Line s (.sendOnly eot) .advance s.advanceFlip (.goto (.transmit 0))
  | retriesCleared {arg eot : Bool} :
      Line s (.request arg eot) .clearRetries { s with retryCount := 0 } (.goto (.transmit 0))
  | sendOnlyTransmitted {eot : Bool} : Line s (.sendOnly eot) .transmitted s (.finish .none .none)
  -- REQUEST after a transmission (43_coordinator.md R213 to R220)
  | requestTransmitted {arg eot : Bool} :
      Line s (.request arg eot) .transmitted s (.goto (if s.ackEn then .ackCheck else .streamStart))
  | ackCheck {arg eot : Bool} {u : State} {how : Leave} (h : Checks s .ackReceiving .plain u how) :
      Line s (.request arg eot) .ackCheck u how
  | ackReceived {arg eot : Bool} : Line s (.request arg eot) .ackReceiving (s.received s.readTimeout) (.goto .streamStart)
  | ackMissing {arg eot : Bool} :
      Line s (.request arg eot) .ackReceiving (s.received s.readTimeout) (.finish .noAck .noMessage)
  | ackFailed {arg eot : Bool} {cause : FatalCause} {after : State} (h : FailedCall s .ackReceiving cause after) :
      Line s (.request arg eot) .ackReceiving after (.fatal cause)
  | noReply {arg eot : Bool} : Line s (.request arg eot) (.reassembled .noMsg) s (.finish .noReply .noMessage)
  | replyFailed {arg eot : Bool} {code : ErrCode} :
      Line s (.request arg eot) (.reassembled (.fail code)) s (.finish code .none)
  | replied {arg eot : Bool} {outcome : RxOutcome} {reply : Reply} (h : ∀ code, outcome ≠ .fail code) :
      Line s (.request arg eot) (.reassembled outcome) s (.finish .none reply)
  | busyReply {arg eot : Bool} {outcome : RxOutcome} {r : BusyReply} :
      Line s (.request arg eot) (.reassembled outcome) s (.goto (.busy r))
  | exhausted {arg eot : Bool} {r : BusyReply} :
      Line s (.request arg eot) (.busy r) s (.finish .retryExhausted r.outcome)
  | retried {arg eot : Bool} {r : BusyReply} : Line s (.request arg eot) (.busy r) s (.goto .backoffCheck)
  | backoffCheck {arg eot : Bool} {u : State} {how : Leave} (h : Checks s .backingOff .plain u how) :
      Line s (.request arg eot) .backoffCheck u how
  | backedOff {arg eot : Bool} :
      Line s (.request arg eot) .backingOff (s.wait (backoff Config.params)) (.goto .countRetry)
  | retryCounted {arg eot : Bool} (n : Word) :
      Line s (.request arg eot) .countRetry { s with retryCount := n } (.goto (.transmit 0))
  -- CONNECT (44_handshake.md R240)
  | connectRefused : Line s .connect .start s (.finish .alreadyConnected .none)
  | probeTooLarge {pos : Pos} (hpos : pos = .start ∨ pos = .probeStore) :
      Line s .connect pos s (.finish .probeTooLarge .none)
  | connectStarted (hsession : s.hsState ≠ .connected) (hfits : s.txLength.toNat ≤ probeMax) :
      Line s .connect .start { s with hsAttempts := 0 } (.goto .enterHandshake)
  | connectStores {pos next : Pos} {f : State → State} (h : ConnectStores pos f next) :
      Line s .connect pos (f s) (.goto next)
  | connectChecks {pos next : Pos} {u : State} {how : Leave} (h : ConnectChecks pos next)
      (hcheck : Checks s next .handshake u how) : Line s .connect pos u how
  | markerSent : Line s .connect .markerSending (s.sent marker) (.goto .markerSettleCheck)
  | markerLost (h : s.hsAttempts.toNat ≠ Config.markerAttempts) :
      Line s .connect .markerSending (s.sent marker) (.goto .markerBackoffCheck)
  | markersLost :
      Line s .connect .markerSending ((s.sent marker).setHs .failed) (.goto (.finishing .linkDown .none))
  | probeStored {ps : List Bytes} (h : s.txStream true = some ps) :
      Line s .connect .probeStore (s.storePkt (ps.take 1)) (.goto .probeRef)
  | probeAdvanced (flip : Bool) : Line s .connect .probeAdvance { s with flip := flip } (.goto .probeCheck)
  | probeSent : Line s .connect .probeSending (s.sent (s.packet 0)) (.goto .probeSettleCheck)
  | probeLost : Line s .connect .probeSending ((s.sent (s.packet 0)).setHs .failed)
      (.goto (.finishing .handshakeAborted .none))
  | echoMatched (aux : Bool) :
      Line s .connect (echoReceiving aux) (s.received s.hsTimeout) (.goto (echoMatched aux))
  | echoDrained (aux : Bool) : Line s .connect (echoReceiving aux) (s.received s.hsTimeout) (.goto (echoCheck aux))
  | echoAborted (aux : Bool) : Line s .connect (echoReceiving aux) ((s.received s.hsTimeout).setHs .failed)
      (.goto (.finishing .handshakeAborted .none))
  -- DISCONNECT (44_handshake.md R260)
  | disconnectRefused : Line s .disconnect .start s (.finish .notConnected .none)
  | disposed (h : s.connected = true) : Line s .disconnect .start (s.record .tDispose) (.goto .transportReset)
  | transportReset : Line s .disconnect .transportReset (s.record .tReset) (.goto .leaveConnected)
  | leaveConnected : Line s .disconnect .leaveConnected { s with connected := false, hsState := .disconnected }
      (.goto .clearRxState)
  | clearRxState : Line s .disconnect .clearRxState (s.setRx .awaitFirstPacket) (.goto (.finishing .none .none))

end Sys2Proof.Machine

/-! SUPPORT. Every line of every command is one that `Line` lists. -/

namespace Sys2Proof.Machine

/-- No command has a line in IDLE. -/
theorem exec_of_idle {s : State} (h : s.seq = .idle) (i : Instr) : exec i s = .fault .outOfSequence := by
  cases i with
  | encode => show execEncode _ = _; rw [execEncode, h]
  | consume eot => show consumeLine _ _ _ = _; rw [consumeLine, h]
  | advance => show execAdvance _ = _; rw [execAdvance, h]
  | resetFlip arg => show execResetFlip _ _ = _; rw [execResetFlip, h]
  | request arg eot => show requestLine _ _ _ _ = _; rw [requestLine, h]
  | sendOnly eot => show execSendOnly _ _ = _; rw [execSendOnly, h]
  | connect => show connectLine _ _ = _; rw [connectLine, h]
  | disconnect => show execDisconnect _ = _; rw [execDisconnect, h]

theorem running_of_exec {i : Instr} {s t : State} (h : exec i s = .next t) : ∃ w pos, s.seq = .running w pos := by
  cases hs : s.seq with
  | idle =>
    rw [exec_of_idle hs] at h
    cases h
  | running w pos => exact ⟨w, pos, rfl⟩

theorem State.startSending_leaves {i : Instr} (hi : (∃ arg eot, i = .request arg eot) ∨ ∃ eot, i = .sendOnly eot)
    {s : State} {c : Half} (hstored : ∀ ps, s.connected = true → s.txStream s.ackEn = some ps →
      Line s i .start (({ s with cmd0 := c } : State).storePkt ps) (.goto .advance)) :
    LeavesBy (Line s i .start) (s.startSending c) := by
  unfold State.startSending
  split_ifs with hconnected
  · split
    next => exact ⟨_, _, .sendOversize hi, rfl⟩
    next ps hps => exact ⟨_, _, hstored ps hconnected hps, rfl⟩
  · exact ⟨_, _, .sendRefused hi, rfl⟩

section Request

variable {arg eot : Bool} {s : State}

theorem FailedCall.ack_leaves {cause : FatalCause}
    (h : FailedCall s .ackReceiving cause (s.received s.readTimeout)) :
    LeavesBy (Line s (.request arg eot) .ackReceiving)
      ((s.received s.readTimeout).recvFailed eot cause (State.finish .noAck .noMessage)) := by
  unfold State.recvFailed
  split_ifs
  · exact ⟨_, _, .ackFailed h, rfl⟩
  · exact ⟨_, _, .ackMissing, rfl⟩

theorem State.receiveAck_leaves : LeavesBy (Line s (.request arg eot) .ackReceiving) (s.receiveAck eot) := by
  unfold State.receiveAck
  split
  next => exact ⟨_, _, .ackReceived, rfl⟩
  next ha => exact (FailedCall.recv (.inr rfl) (.inl ⟨ha, rfl⟩)).ack_leaves
  next ha => exact (FailedCall.recv (.inr rfl) (.inr ⟨ha, rfl⟩)).ack_leaves

theorem State.decideReply_leaves (p : Config.Params) (o : RxOutcome) :
    LeavesBy (Line s (.request arg eot) (.reassembled o)) (s.decideReply p arg o) := by
  unfold State.decideReply
  split
  next => exact ⟨_, _, .noReply, rfl⟩
  next => exact ⟨_, _, .replyFailed, rfl⟩
  next =>
    split_ifs
    · exact ⟨_, _, .busyReply, rfl⟩
    · exact ⟨_, _, .replied (fun _ => nofun), rfl⟩
  next =>
    split_ifs
    · exact ⟨_, _, .busyReply, rfl⟩
    · exact ⟨_, _, .replied (fun _ => nofun), rfl⟩

theorem State.retryOrGiveUp_leaves (r : BusyReply) :
    LeavesBy (Line s (.request arg eot) (.busy r)) (s.retryOrGiveUp r) := by
  unfold State.retryOrGiveUp
  split_ifs
  · exact ⟨_, _, .exhausted, rfl⟩
  · exact ⟨_, _, .retried, rfl⟩

end Request

section Connect

variable {s : State}

theorem State.startConnect_leaves : LeavesBy (Line s .connect .start) s.startConnect := by
  unfold State.startConnect
  split_ifs with hsession hlong
  · exact ⟨_, _, .connectRefused, rfl⟩
  · exact ⟨_, _, .probeTooLarge (.inl rfl), rfl⟩
  · exact ⟨_, _, .connectStarted hsession (Nat.le_of_not_lt hlong), rfl⟩

theorem State.sendMarker_leaves : LeavesBy (Line s .connect .markerSending) s.sendMarker := by
  unfold State.sendMarker
  split
  next => exact ⟨_, _, .markerSent, rfl⟩
  next =>
    split_ifs with hlast
    · exact ⟨_, _, .markersLost, rfl⟩
    · exact ⟨_, _, .markerLost hlast, rfl⟩

theorem State.storeProbe_leaves : LeavesBy (Line s .connect .probeStore) s.storeProbe := by
  unfold State.storeProbe
  split
  next => exact ⟨_, _, .probeTooLarge (.inr rfl), rfl⟩
  next hps => exact ⟨_, _, .probeStored hps, rfl⟩

theorem State.sendProbe_leaves : LeavesBy (Line s .connect .probeSending) s.sendProbe := by
  unfold State.sendProbe
  split
  next => exact ⟨_, _, .probeSent, rfl⟩
  next => exact ⟨_, _, .probeLost, rfl⟩

theorem State.awaitEcho_leaves (aux : Bool) :
    LeavesBy (Line s .connect (echoReceiving aux)) (s.awaitEcho (echoCheck aux) (echoMatched aux)) := by
  unfold State.awaitEcho
  split
  next =>
    split_ifs
    · exact ⟨_, _, .echoMatched aux, rfl⟩
    · exact ⟨_, _, .echoDrained aux, rfl⟩
  next => exact ⟨_, _, .echoDrained aux, rfl⟩
  next => exact ⟨_, _, .echoAborted aux, rfl⟩

end Connect

section Sound

variable {s t : State} {w : Word} {pos : Pos} (hs : s.seq = .running w pos)
include hs

theorem exec_encode_line (h : exec .encode s = .next t) : LeavesBy (Line s .encode pos) t := by
  change execEncode _ = _ at h
  unfold execEncode at h
  split at h
  next hpos =>
    cases hs.symm.trans hpos
    split at h <;> cases h
    next => exact ⟨_, _, .encodeOversize, rfl⟩
    next hps => exact ⟨_, _, .encodeStored hps, rfl⟩
  next hpos => cases hs.symm.trans hpos; cases h; exact ⟨_, _, .finishing (by nofun), rfl⟩
  next => cases h

theorem exec_advance_line (h : exec .advance s = .next t) : LeavesBy (Line s .advance pos) t := by
  change execAdvance _ = _ at h
  unfold execAdvance at h
  split at h
  next hpos => cases hs.symm.trans hpos; cases h; exact ⟨_, _, .advance, rfl⟩
  next hpos => cases hs.symm.trans hpos; cases h; exact ⟨_, _, .finishing (by nofun), rfl⟩
  next => cases h

theorem exec_resetFlip_line {arg : Bool} (h : exec (.resetFlip arg) s = .next t) :
    LeavesBy (Line s (.resetFlip arg) pos) t := by
  change execResetFlip _ _ = _ at h
  unfold execResetFlip at h
  split at h
  next hpos => cases hs.symm.trans hpos; cases h; exact ⟨_, _, .resetFlip, rfl⟩
  next hpos => cases hs.symm.trans hpos; cases h; exact ⟨_, _, .finishing (by nofun), rfl⟩
  next => cases h

theorem exec_consume_line {eot : Bool} (h : exec (.consume eot) s = .next t) :
    LeavesBy (Line s (.consume eot) pos) t := by
  change consumeLine _ _ _ = _ at h
  unfold consumeLine at h
  split at h
  next hpos =>
    cases hs.symm.trans hpos; cases h
    split_ifs with hconnected
    · exact ⟨_, _, .consumeStarted hconnected, rfl⟩
    · exact ⟨_, _, .consumeRefused, rfl⟩
  next o hpos =>
    cases hs.symm.trans hpos; cases h
    cases o with
    | fail code => exact ⟨_, _, .consumeFailed, rfl⟩
    | msg | retry | noMsg => exact ⟨_, _, .consumed (fun _ => nofun), rfl⟩
  next hpos => cases hs.symm.trans hpos; cases h; exact ⟨_, _, .finishing (by nofun), rfl⟩
  next hpos =>
    cases hs.symm.trans hpos
    exact (reassembleLine_leaves h).imp fun _ _ => .reassemble (.inl ⟨eot, rfl⟩)
  next => cases h

theorem exec_request_line {arg eot : Bool} (h : exec (.request arg eot) s = .next t) :
    LeavesBy (Line s (.request arg eot) pos) t := by
  have transmission {q : Pos} (hq : transmitLine eot q s = .next t) : LeavesBy (Line s (.request arg eot) q) t :=
    (transmitLine_leaves hq).imp fun _ _ => .transmit (.inl ⟨arg, eot, rfl⟩)
  change requestLine _ _ _ _ = _ at h
  unfold requestLine at h
  split at h
  next hpos =>
    cases hs.symm.trans hpos; cases h
    exact State.startSending_leaves (.inl ⟨arg, eot, rfl⟩) fun _ => .requestStored
  next hpos => cases hs.symm.trans hpos; cases h; exact ⟨_, _, .requestAdvanced, rfl⟩
  next hpos => cases hs.symm.trans hpos; cases h; exact ⟨_, _, .retriesCleared, rfl⟩
  iterate 4 next hpos => cases hs.symm.trans hpos; exact transmission h
  next hpos => cases hs.symm.trans hpos; cases h; exact ⟨_, _, .requestTransmitted, rfl⟩
  next hpos =>
    cases hs.symm.trans hpos; cases h
    exact (s.checkCancel_leaves _ _).imp fun _ _ => .ackCheck
  next hpos => cases hs.symm.trans hpos; cases h; exact State.receiveAck_leaves
  next hpos => cases hs.symm.trans hpos; cases h; exact State.decideReply_leaves _ _
  next hpos => cases hs.symm.trans hpos; cases h; exact State.retryOrGiveUp_leaves _
  next hpos =>
    cases hs.symm.trans hpos; cases h
    exact (s.checkCancel_leaves _ _).imp fun _ _ => .backoffCheck
  next hpos => cases hs.symm.trans hpos; cases h; exact ⟨_, _, .backedOff, rfl⟩
  next hpos => cases hs.symm.trans hpos; cases h; exact ⟨_, _, .retryCounted _, rfl⟩
  next hpos => cases hs.symm.trans hpos; cases h; exact ⟨_, _, .finishing (by nofun), rfl⟩
  next hpos =>
    cases hs.symm.trans hpos
    exact (reassembleLine_leaves h).imp fun _ _ => .reassemble (.inr ⟨arg, eot, rfl⟩)
  next => cases h

theorem exec_sendOnly_line {eot : Bool} (h : exec (.sendOnly eot) s = .next t) :
    LeavesBy (Line s (.sendOnly eot) pos) t := by
  change execSendOnly _ _ = _ at h
  unfold execSendOnly at h
  split at h
  next hpos =>
    cases hs.symm.trans hpos; cases h
    exact State.startSending_leaves (c := s.cmd0) (.inr ⟨eot, rfl⟩) fun _ => .sendOnlyStored
  next hpos => cases hs.symm.trans hpos; cases h; exact ⟨_, _, .sendOnlyAdvanced, rfl⟩
  next hpos => cases hs.symm.trans hpos; cases h; exact ⟨_, _, .sendOnlyTransmitted, rfl⟩
  next hpos =>
    cases hs.symm.trans hpos
    exact (transmitLine_leaves h).imp fun _ _ => .transmit (.inr ⟨eot, rfl⟩)
  next => cases h

theorem exec_disconnect_line (h : exec .disconnect s = .next t) : LeavesBy (Line s .disconnect pos) t := by
  change execDisconnect _ = _ at h
  unfold execDisconnect at h
  split at h
  next hpos =>
    cases hs.symm.trans hpos; cases h
    split_ifs with hconnected
    · exact ⟨_, _, .disposed hconnected, rfl⟩
    · exact ⟨_, _, .disconnectRefused, rfl⟩
  next hpos => cases hs.symm.trans hpos; cases h; exact ⟨_, _, .transportReset, rfl⟩
  next hpos => cases hs.symm.trans hpos; cases h; exact ⟨_, _, .leaveConnected, rfl⟩
  next hpos => cases hs.symm.trans hpos; cases h; exact ⟨_, _, .clearRxState, rfl⟩
  next hpos => cases hs.symm.trans hpos; cases h; exact ⟨_, _, .finishing (by nofun), rfl⟩
  next => cases h

theorem exec_connect_line (h : exec .connect s = .next t) : LeavesBy (Line s .connect pos) t := by
  change connectLine _ _ = _ at h
  unfold connectLine at h
  split at h
  case h_1 hpos => cases hs.symm.trans hpos; cases h; exact State.startConnect_leaves
  -- the Sends, the encoding of the probe and the echoes
  case h_5 hpos => cases hs.symm.trans hpos; cases h; exact State.sendMarker_leaves
  case h_12 hpos => cases hs.symm.trans hpos; cases h; exact State.storeProbe_leaves
  case h_16 hpos => cases hs.symm.trans hpos; cases h; exact State.sendProbe_leaves
  case h_22 hpos => cases hs.symm.trans hpos; cases h; exact State.awaitEcho_leaves true
  case h_26 hpos => cases hs.symm.trans hpos; cases h; exact State.awaitEcho_leaves false
  case h_14 hpos =>
    cases hs.symm.trans hpos; cases h
    split_ifs
    · exact ⟨_, _, .probeAdvanced (!s.flip), rfl⟩
    · exact ⟨_, _, .probeAdvanced s.flip, rfl⟩
  case h_28 hpos => cases hs.symm.trans hpos; cases h; exact ⟨_, _, .finishing (by nofun), rfl⟩
  case h_29 => cases h
  -- the cancel points
  case h_3 hpos | h_6 hpos | h_8 hpos | h_15 hpos | h_17 hpos | h_21 hpos | h_25 hpos =>
    cases hs.symm.trans hpos; cases h
    exact (s.checkCancel_leaves _ _).imp fun _ _ => .connectChecks (by constructor)
  -- the lines that only store or wait
  all_goals
    cases hs.symm.trans ‹s.seq = _›; cases h
    refine ⟨_, _, .connectStores (by constructor), ?_⟩
    rfl

/-- Every line of every command is one that `Line` lists. -/
theorem exec_line {i : Instr} (h : exec i s = .next t) : LeavesBy (Line s i pos) t := by
  cases i with
  | encode => exact exec_encode_line hs h
  | consume eot => exact exec_consume_line hs h
  | advance => exact exec_advance_line hs h
  | resetFlip arg => exact exec_resetFlip_line hs h
  | request arg eot => exact exec_request_line hs h
  | sendOnly eot => exact exec_sendOnly_line hs h
  | connect => exact exec_connect_line hs h
  | disconnect => exact exec_disconnect_line hs h

end Sound
end Sys2Proof.Machine

/-! SUPPORT. What a line may leave its command by, that every position has one, and the registers it may write. -/

namespace Sys2Proof.Machine

/-! ## The end of a line -/

/-- The way out of a line is one the command has: a position of its own, a `finish` with a code that 60_exceptions.md R281
lists for it, or fatal entry where R281 lists FATAL. -/
def Leave.allowed (i : Instr) : Leave → Prop
  | .goto pos => ownPos i pos = true
  | .finish err _ => raises i err = true ∧ err ≠ .fatal
  | .fatal cause => raises i .fatal = true ∧ cause ≠ .none

theorem FailedCall.cause_ne_none {s after : State} {pos : Pos} {cause : FatalCause} (h : FailedCall s pos cause after) :
    cause ≠ .none := by
  cases h with
  | send j ha => decide
  | recv hpos ha => obtain ⟨-, rfl⟩ | ⟨-, rfl⟩ := ha <;> decide

/-- 41_reassembly.md R154: the codes of a failed string. -/
theorem reassemblyCode_of_rxPacket {strict : Bool} {sc : Scratch} {b : Bytes} {code : ErrCode}
    (h : rxPacket strict sc b = .failed code) : reassemblyCode code = true := by
  unfold rxPacket at h
  simp only at h
  split_ifs at h <;> cases h <;> rfl

theorem Checks.allowed {s u : State} {next : Pos} {scope : CancelScope} {how : Leave} {i : Instr}
    (h : Checks s next scope u how) (hnext : ownPos i next = true) (hraises : raises i .cancelled = true)
    (hfinish : scope ≠ .plain → ownPos i (.finishing .cancelled .none) = true) : how.allowed i := by
  cases h with
  | onward => exact hnext
  | plain => exact ⟨hraises, by decide⟩
  | handshake => exact hfinish (by decide)
  | reassembly => exact hfinish (by decide)

/-- The pending finishes of a command have codes of its own. -/
theorem raises_of_finishing {i : Instr} {err : ErrCode} {outcome : Reply}
    (h : ownPos i (.finishing err outcome) = true) : raises i err = true ∧ err ≠ .fatal := by
  cases i with
  | sendOnly => cases h
  | connect =>
    obtain ⟨hraises, -⟩ := (Bool.and_eq_true _ _).mp h
    refine ⟨hraises, ?_⟩
    rintro rfl
    cases hraises
  | encode | consume | advance | resetFlip | request | disconnect =>
    obtain ⟨herr, -⟩ := (Bool.and_eq_true _ _).mp h
    obtain rfl := eq_of_beq herr
    exact ⟨rfl, by decide⟩

section Reassemble

variable {i : Instr} (hi : (∃ eot, i = .consume eot) ∨ ∃ arg eot, i = .request arg eot)
include hi

theorem raises_of_reassemblyCode {code : ErrCode} (h : reassemblyCode code = true) :
    raises i code = true ∧ code ≠ .fatal := by
  constructor
  · obtain ⟨eot, rfl⟩ | ⟨arg, eot, rfl⟩ := hi <;> simp [raises, h]
  · rintro rfl
    cases h

theorem ownPos_of_reassemblyPos {pos : Pos} (h : reassemblyPos pos = true) : ownPos i pos = true := by
  obtain ⟨eot, rfl⟩ | ⟨arg, eot, rfl⟩ := hi
  all_goals
    cases pos with
    | streamStart | rxCheck | receiving | streamComplete | validate | debugCount => rfl
    | reassembled o => exact h
    | _ => cases h

theorem reassemblyCode_of_ownPos {code : ErrCode} (h : ownPos i (.reassembled (.fail code)) = true) :
    reassemblyCode code = true := by
  obtain ⟨eot, rfl⟩ | ⟨arg, eot, rfl⟩ := hi <;> exact h

theorem ReassembleLine.allowed {s u : State} {pos : Pos} {how : Leave} (h : ReassembleLine s pos u how) :
    how.allowed i := by
  have hfatal : raises i .fatal = true := by obtain ⟨eot, rfl⟩ | ⟨arg, eot, rfl⟩ := hi <;> rfl
  cases h with
  | rxCheck h =>
    refine h.allowed (ownPos_of_reassemblyPos hi rfl) ?_ fun _ => ?_
    all_goals obtain ⟨eot, rfl⟩ | ⟨arg, eot, rfl⟩ := hi <;> rfl
  | failed h => exact ⟨hfatal, h.cause_ne_none⟩
  | rejected _ hrx => exact ownPos_of_reassemblyPos hi (reassemblyCode_of_rxPacket hrx)
  | accepted => exact ownPos_of_reassemblyPos hi (by split_ifs <;> rfl)
  | _ => exact ownPos_of_reassemblyPos hi rfl

end Reassemble

theorem TransmitLine.allowed {i : Instr} (hi : (∃ arg eot, i = .request arg eot) ∨ ∃ eot, i = .sendOnly eot)
    {s u : State} {pos : Pos} {how : Leave} (h : TransmitLine s pos u how) : how.allowed i := by
  have own {q : Pos} (hq : transmitPos q = true) : ownPos i q = true := by
    obtain ⟨arg, eot, rfl⟩ | ⟨eot, rfl⟩ := hi
    all_goals
      cases q with
      | transmit | sending | settleCheck | settling | transmitted => rfl
      | _ => cases hq
  have hraises {code : ErrCode} (hcode : code = .transportError ∨ code = .cancelled ∨ code = .fatal) :
      raises i code = true := by
    obtain ⟨arg, eot, rfl⟩ | ⟨eot, rfl⟩ := hi <;> obtain rfl | rfl | rfl := hcode <;> rfl
  cases h with
  | next _ h => exact h.allowed (own rfl) (hraises (by simp)) nofun
  | settleCheck h => exact h.allowed (own rfl) (hraises (by simp)) nofun
  | failed h => exact ⟨hraises (by simp), h.cause_ne_none⟩
  | lost => exact ⟨hraises (by simp), by decide⟩
  | done | sent | settling => exact own rfl

theorem Line.allowed {s u : State} {i : Instr} {pos : Pos} {how : Leave} (h : Line s i pos u how)
    (hown : ownPos i pos = true) : how.allowed i := by
  cases h with
  | finishing => exact raises_of_finishing hown
  | reassemble hi h => exact h.allowed hi
  | transmit hi h => exact h.allowed hi
  | sendRefused hi => obtain ⟨arg, eot, rfl⟩ | ⟨eot, rfl⟩ := hi <;> exact ⟨rfl, by decide⟩
  | sendOversize hi => obtain ⟨arg, eot, rfl⟩ | ⟨eot, rfl⟩ := hi <;> exact ⟨rfl, by decide⟩
  | consumeFailed =>
    exact raises_of_reassemblyCode (.inl ⟨_, rfl⟩) (reassemblyCode_of_ownPos (.inl ⟨_, rfl⟩) hown)
  | replyFailed =>
    exact raises_of_reassemblyCode (.inr ⟨_, _, rfl⟩) (reassemblyCode_of_ownPos (.inr ⟨_, _, rfl⟩) hown)
  | requestTransmitted => split_ifs <;> rfl
  | ackCheck h => exact h.allowed rfl rfl nofun
  | backoffCheck h => exact h.allowed rfl rfl nofun
  | ackFailed h => exact ⟨rfl, h.cause_ne_none⟩
  | connectStores h => cases h <;> rfl
  | connectChecks h hcheck => exact hcheck.allowed (by cases h <;> rfl) rfl fun _ => rfl
  | echoMatched aux => cases aux <;> rfl
  | echoDrained aux => cases aux <;> rfl
  | encodeOversize | consumeRefused | consumed | sendOnlyTransmitted | ackMissing | noReply | replied | exhausted
  | connectRefused | probeTooLarge | disconnectRefused => exact ⟨rfl, by decide⟩
  | _ => rfl

/-- Every position of a command's pseudocode has a line. -/
theorem exists_exec {i : Instr} {s : State} {w : Word} {pos : Pos} (hs : s.seq = .running w pos)
    (hown : ownPos i pos = true) : ∃ t, exec i s = .next t := by
  obtain ⟨s, rfl⟩ := State.exists_movedTo hs
  cases i with
  | encode =>
    cases pos with
    | start =>
      cases hps : (s.movedTo w .start).txStream (s.movedTo w .start).ackEn with
      | none => exact ⟨_, exec_encode_oversize hs hps⟩
      | some ps => exact ⟨_, exec_encode_stored hs hps⟩
    | finishing => exact ⟨_, rfl⟩
    | _ => cases hown
  | advance | resetFlip =>
    cases pos with
    | start | finishing => exact ⟨_, rfl⟩
    | _ => cases hown
  | consume eot =>
    cases pos with
    | start | finishing | streamStart | rxCheck | receiving | streamComplete | validate | debugCount | reassembled =>
      exact ⟨_, rfl⟩
    | _ => cases hown
  | request arg eot =>
    cases pos with
    | start | finishing | advance | clearRetries | transmit | sending | settleCheck | settling | transmitted | ackCheck
    | ackReceiving | streamStart | rxCheck | receiving | streamComplete | validate | debugCount | reassembled | busy
    | backoffCheck | backingOff | countRetry => exact ⟨_, rfl⟩
    | _ => cases hown
  | sendOnly eot =>
    cases pos with
    | start | advance | transmit | sending | settleCheck | settling | transmitted => exact ⟨_, rfl⟩
    | _ => cases hown
  | connect =>
    cases pos with
    | start | finishing | enterHandshake | markerCheck | markerCount | markerSending | markerBackoffCheck
    | markerBackingOff | markerSettleCheck | markerSettling | flipReset | enterFlipBitReset | probeStore | probeRef
    | probeAdvance | probeCheck | probeSending | probeSettleCheck | probeSettling | enterProbeSent | enterAuxAck
    | auxCheck | auxReceiving | clearAckFlag | enterMainAck | mainCheck | mainReceiving | enterConnected =>
      exact ⟨_, rfl⟩
    | _ => cases hown
  | disconnect =>
    cases pos with
    | start | finishing | transportReset | leaveConnected | clearRxState => exact ⟨_, rfl⟩
    | _ => cases hown

/-! ## What a command may write -/

/-- `s` with the registers that a line of the command may store taken from `u`; `finish` and fatal entry write theirs
beside them. -/
def State.writtenBy (i : Instr) (s u : State) : State :=
  match i with
  | .encode => { s with pktCount := u.pktCount, mem := u.mem }
  | .consume _ =>
    { s with
      rxState := u.rxState, rxHdr := u.rxHdr, dbgCount := u.dbgCount, mem := u.mem, scratch := u.scratch
      recvAnswers := u.recvAnswers, draws := u.draws, trace := u.trace }
  | .advance | .resetFlip _ => { s with flip := u.flip }
  | .request _ _ =>
    { s with
      flip := u.flip, rxState := u.rxState, rxHdr := u.rxHdr, pktCount := u.pktCount, retryCount := u.retryCount
      dbgCount := u.dbgCount, mem := u.mem, cmd0 := u.cmd0, scratch := u.scratch, sendAnswers := u.sendAnswers
      recvAnswers := u.recvAnswers, draws := u.draws, trace := u.trace }
  | .sendOnly _ =>
    { s with
      flip := u.flip, pktCount := u.pktCount, mem := u.mem, sendAnswers := u.sendAnswers
      draws := u.draws, trace := u.trace }
  | .connect =>
    { s with
      connected := u.connected, flip := u.flip, hsState := u.hsState, pktCount := u.pktCount
      hsAttempts := u.hsAttempts, mem := u.mem, sendAnswers := u.sendAnswers, recvAnswers := u.recvAnswers
      draws := u.draws, trace := u.trace }
  | .disconnect => { s with connected := u.connected, hsState := u.hsState, rxState := u.rxState, trace := u.trace }

theorem ReassembleLine.writes {s u : State} {pos : Pos} {how : Leave} (h : ReassembleLine s pos u how) :
    u = { s with
      rxState := u.rxState, rxHdr := u.rxHdr, dbgCount := u.dbgCount, mem := u.mem, scratch := u.scratch
      recvAnswers := u.recvAnswers, draws := u.draws, trace := u.trace } := by
  cases h with
  | rxCheck h => cases h <;> rfl
  | noMessage h => cases h; rfl
  | failed h => cases h; rfl
  | _ => rfl

theorem TransmitLine.writes {s u : State} {pos : Pos} {how : Leave} (h : TransmitLine s pos u how) :
    u = { s with sendAnswers := u.sendAnswers, draws := u.draws, trace := u.trace } := by
  cases h with
  | next _ h => cases h <;> rfl
  | settleCheck h => cases h <;> rfl
  | failed h =>
    cases h with
    | send => rfl
    | recv hpos => obtain h | h := hpos <;> cases h
  | _ => rfl

theorem Line.writes {s u : State} {i : Instr} {pos : Pos} {how : Leave} (h : Line s i pos u how) :
    u = s.writtenBy i u := by
  cases h with
  | finishing => cases i <;> rfl
  | reassemble hi h => obtain ⟨eot, rfl⟩ | ⟨arg, eot, rfl⟩ := hi <;> rw [h.writes] <;> rfl
  | transmit hi h => obtain ⟨arg, eot, rfl⟩ | ⟨eot, rfl⟩ := hi <;> rw [h.writes] <;> rfl
  | sendRefused hi => obtain ⟨arg, eot, rfl⟩ | ⟨eot, rfl⟩ := hi <;> rfl
  | sendOversize hi => obtain ⟨arg, eot, rfl⟩ | ⟨eot, rfl⟩ := hi <;> rfl
  | ackCheck h => cases h <;> rfl
  | backoffCheck h => cases h <;> rfl
  | ackFailed h => cases h; rfl
  | connectStores h => cases h <;> rfl
  | connectChecks _ h => cases h <;> rfl
  | _ => rfl

end Sys2Proof.Machine

/-! SUPPORT. The bytes a line may store and the event it may record, and the obligations that hold of every line. -/

namespace Sys2Proof.Machine

/-! ### Memory -/

/-- The offsets of the buffers that a line of the command may store in (10_state.md R43 to R46). -/
def storedOffset : Instr → Nat → Bool
  | .encode, a => inPkt a
  | .consume _, a => inRx a
  | .request _ _, a => inRx a || inPkt a
  | .sendOnly _, a => inPkt a
  | .connect, a => inPkt a || inRef a
  | .advance, _ | .resetFlip _, _ | .disconnect, _ => false

/-- The memory `m'` is `m`, or `m` with bytes stored at consecutive offsets of `allowed`. -/
inductive Stores (allowed : Nat → Bool) (m : Memory) : Memory → Prop
  | nothing : Stores allowed m m
  | range {base : Nat} {bs : Bytes} (h : ∀ a, base ≤ a → a < base + bs.length → allowed a = true) :
      Stores allowed m (Memory.writeRange m base bs)

theorem Stores.read {allowed : Nat → Bool} {m m' : Memory} (h : Stores allowed m m') {a : Nat} (ha : allowed a = false) :
    Memory.read m' a = Memory.read m a := by
  cases h with
  | nothing => rfl
  | range hrange =>
    rw [Memory.read_writeRange, if_neg]
    rintro ⟨hlow, hhigh⟩
    rw [hrange a hlow hhigh] at ha
    cases ha

theorem Stores.wf {allowed : Nat → Bool} {m m' : Memory} (h : Stores allowed m m') (hm : Memory.wf m) :
    Memory.wf m' := by
  cases h with
  | nothing => exact hm
  | range => exact Memory.writeRange_wf hm _ _

theorem Stores.forall_mem {allowed : Nat → Bool} {m m' : Memory} (h : Stores allowed m m') {p : Nat → Prop}
    (hallowed : ∀ a, allowed a = true → p a) (hm : ∀ c ∈ m, p c.1) : ∀ c ∈ m', p c.1 := by
  cases h with
  | nothing => exact hm
  | range hrange =>
    intro c hc
    obtain hc | ⟨hlow, hhigh⟩ := Memory.mem_writeRange hc
    · exact hm c hc
    · exact hallowed _ (hrange _ hlow hhigh)

section Buffers

variable {allowed : Nat → Bool} (s : State)

theorem State.storePkt_stores (h : ∀ a, inPkt a = true → allowed a = true) (ps : List Bytes) :
    Stores allowed s.mem (s.storePkt ps).mem := by
  refine .range fun a hlow hhigh => h a ((inPkt_iff a).mpr ?_)
  simp only [pktBase, Config.pktMax, Config.mtu, length_padTo] at hlow hhigh
  omega

theorem State.commit_stores (h : ∀ a, inRx a = true → allowed a = true) (c l : Half) (acc : Bytes) :
    Stores allowed s.mem (s.commit c l acc).mem := by
  refine .range fun a hlow hhigh => h a ((inRx_iff a).mpr ?_)
  simp only [rxBase, Config.msgMax, length_padTo] at hlow hhigh
  omega

theorem State.storeReference_stores (h : ∀ a, inRef a = true → allowed a = true) :
    Stores allowed s.mem s.storeReference.mem := by
  have hlength : (s.packet 0).length = 64 := Memory.length_readRange ..
  refine .range fun a hlow hhigh => h a ((inRef_iff a).mpr ?_)
  simp only [refBase, hlength] at hlow hhigh
  omega

theorem State.clearReferenceAck_stores (h : ∀ a, inRef a = true → allowed a = true) :
    Stores allowed s.mem s.clearReferenceAck.mem := by
  refine .range fun a hlow hhigh => h a ((inRef_iff a).mpr ?_)
  simp only [refBase, List.length_singleton] at hlow hhigh
  omega

end Buffers

theorem ReassembleLine.stores {s u : State} {pos : Pos} {how : Leave} (h : ReassembleLine s pos u how) :
    Stores inRx s.mem u.mem := by
  cases h with
  | message => exact s.commit_stores (fun _ => id) _ _ _
  | rxCheck h => cases h <;> exact .nothing
  | noMessage h => cases h; exact .nothing
  | failed h => cases h; exact .nothing
  | _ => exact .nothing

theorem Stores.mono {allowed allowed' : Nat → Bool} {m m' : Memory} (h : Stores allowed m m')
    (hle : ∀ a, allowed a = true → allowed' a = true) : Stores allowed' m m' := by
  cases h with
  | nothing => exact .nothing
  | range hrange => exact .range fun a hlow hhigh => hle a (hrange a hlow hhigh)

theorem Line.stores {s u : State} {i : Instr} {pos : Pos} {how : Leave} (h : Line s i pos u how) :
    Stores (storedOffset i) s.mem u.mem := by
  cases h with
  | encodeStored => exact s.storePkt_stores (fun _ => id) _
  | requestStored => exact s.storePkt_stores (fun a ha => by simp [storedOffset, ha]) _
  | sendOnlyStored => exact s.storePkt_stores (fun _ => id) _
  | probeStored => exact s.storePkt_stores (fun a ha => by simp [storedOffset, ha]) _
  | reassemble hi h =>
    refine h.stores.mono fun a ha => ?_
    obtain ⟨eot, rfl⟩ | ⟨arg, eot, rfl⟩ := hi <;> simp [storedOffset, ha]
  | transmit _ h =>
    have hmem : u.mem = s.mem := (congrArg State.mem h.writes :)
    rw [hmem]
    exact .nothing
  | connectStores h =>
    cases h with
    | probeRef => exact s.storeReference_stores fun a ha => by simp [storedOffset, ha]
    | clearAckFlag => exact s.clearReferenceAck_stores fun a ha => by simp [storedOffset, ha]
    | _ => exact .nothing
  | connectChecks _ h => cases h <;> exact .nothing
  | ackCheck h => cases h <;> exact .nothing
  | backoffCheck h => cases h <;> exact .nothing
  | ackFailed h => cases h; exact .nothing
  | _ => exact .nothing

theorem inTx_disjoint {a : Nat} (h : inTx a = true) : inRx a = false ∧ inPkt a = false ∧ inRef a = false := by
  simp only [← Bool.not_eq_true, inTx_iff, inRx_iff, inPkt_iff, inRef_iff] at h ⊢
  omega

theorem inRx_disjoint {a : Nat} (h : inRx a = true) : inPkt a = false ∧ inRef a = false := by
  simp only [← Bool.not_eq_true, inRx_iff, inPkt_iff, inRef_iff] at h ⊢
  omega

theorem inPkt_disjoint {a : Nat} (h : inPkt a = true) : inRx a = false ∧ inRef a = false := by
  simp only [← Bool.not_eq_true, inRx_iff, inPkt_iff, inRef_iff] at h ⊢
  omega

theorem inRef_disjoint {a : Nat} (h : inRef a = true) : inRx a = false ∧ inPkt a = false := by
  simp only [← Bool.not_eq_true, inRx_iff, inPkt_iff, inRef_iff] at h ⊢
  omega

/-! ### What every line leaves alone -/

section Keeps

variable {s u : State} {i : Instr} {pos : Pos} {how : Leave} (h : Line s i pos u how)
include h

theorem Line.seq_eq : u.seq = s.seq := by
  rw [h.writes]
  cases i <;> rfl

theorem Line.hostSide : SameHostSide s u := by
  rw [h.writes]
  cases i <;> exact ⟨rfl, rfl, rfl, rfl, rfl, rfl, rfl, rfl, rfl, rfl, rfl, rfl⟩

/-- The stores of a line leave RESULT, DONE and CANCEL_PEND to the way out of it. -/
theorem Line.result : SameResult s u := by
  rw [h.writes]
  cases i <;> exact ⟨rfl, rfl, rfl, rfl, rfl, rfl⟩

end Keeps

section Leave

variable (how : Leave) (u : State)

theorem State.leave_hostSide : SameHostSide u (u.leave how) := by
  cases how <;> exact ⟨rfl, rfl, rfl, rfl, rfl, rfl, rfl, rfl, rfl, rfl, rfl, rfl⟩

@[simp] theorem State.leave_flip : (u.leave how).flip = u.flip := by cases how <;> rfl
@[simp] theorem State.leave_rxHdr : (u.leave how).rxHdr = u.rxHdr := by cases how <;> rfl
@[simp] theorem State.leave_pktCount : (u.leave how).pktCount = u.pktCount := by cases how <;> rfl
@[simp] theorem State.leave_retryCount : (u.leave how).retryCount = u.retryCount := by cases how <;> rfl
@[simp] theorem State.leave_dbgCount : (u.leave how).dbgCount = u.dbgCount := by cases how <;> rfl
@[simp] theorem State.leave_hsAttempts : (u.leave how).hsAttempts = u.hsAttempts := by cases how <;> rfl
@[simp] theorem State.leave_mem : (u.leave how).mem = u.mem := by cases how <;> rfl
@[simp] theorem State.leave_trace : (u.leave how).trace = u.trace := by cases how <;> rfl

/-- Only fatal entry writes HS_STATE, CONNECTED and RX_STATE beside the line's own stores (60_exceptions.md R287). -/
theorem State.leave_session (h : (u.leave how).fatal = false) :
    (u.leave how).hsState = u.hsState ∧ (u.leave how).connected = u.connected ∧ (u.leave how).rxState = u.rxState := by
  cases how with
  | goto | finish => exact ⟨rfl, rfl, rfl⟩
  | fatal => cases h

/-- Where the command goes on, the way out of the line has written SEQ alone. -/
theorem State.leave_result (h : (u.leave how).seq ≠ .idle) : SameResult u (u.leave how) := by
  cases how with
  | goto => exact ⟨rfl, rfl, rfl, rfl, rfl, rfl⟩
  | finish | fatal => exact absurd rfl h

end Leave

theorem SameResult.trans {s t u : State} (h₁ : SameResult s t) (h₂ : SameResult t u) : SameResult s u where
  errCode := h₂.errCode.trans h₁.errCode
  outcome := h₂.outcome.trans h₁.outcome
  fatalCause := h₂.fatalCause.trans h₁.fatalCause
  lastOp := h₂.lastOp.trans h₁.lastOp
  done := h₂.done.trans h₁.done
  cancelPend := h₂.cancelPend.trans h₁.cancelPend

/-! ## The obligations about what a line writes -/

/-- The line that a next state comes from. -/
theorem exists_line {i : Instr} {s t : State} (h : exec i s = .next t) :
    ∃ w pos u how, s.seq = .running w pos ∧ Line s i pos u how ∧ t = u.leave how := by
  obtain ⟨w, pos, hs⟩ := running_of_exec h
  obtain ⟨u, how, hline, ht⟩ := exec_line hs h
  exact ⟨w, pos, u, how, hs, hline, ht⟩

/-- Settles O50: a position of the command has a line, and the way out of it is one the command has. -/
theorem everyLineAnswersAndEveryEndIsRecorded : Obligations.EveryLineAnswersAndEveryEndIsRecorded := by
  intro i s w pos hs hown
  obtain ⟨t, hexec⟩ := exists_exec hs hown
  obtain ⟨u, how, line, rfl⟩ := exec_line hs hexec
  have hseq : u.seq = .running w pos := line.seq_eq.trans hs
  have hallowed := line.allowed hown
  refine ⟨_, hexec, ?_⟩
  cases how with
  | goto next =>
    have hnext : (u.goto next).seq = .running w next := by rw [State.goto_of_running hseq]
    exact .inl ⟨next, hnext, hallowed, line.result.trans ⟨rfl, rfl, rfl, rfl, rfl, rfl⟩⟩
  | finish err outcome =>
    obtain ⟨hraises, hnot⟩ := hallowed
    refine .inr ⟨rfl, rfl, rfl, ?_, hraises, fun h => absurd h hnot, fun h => absurd rfl h⟩
    rw [State.leave, State.finish_of_running hseq]
    rfl
  | fatal cause =>
    obtain ⟨hraises, hcause⟩ := hallowed
    refine .inr ⟨rfl, rfl, rfl, ?_, hraises, fun _ => hcause, fun _ => rfl⟩
    rw [State.leave, State.raiseFatal_lastOp, hseq]
    rfl

/-- Settles O57: no line stores a register of the host's or a byte of TX_DATA, and no way out of one does. -/
theorem commandsKeepTheHostsConfiguration : Obligations.CommandsKeepTheHostsConfiguration := by
  intro i s t h
  obtain ⟨w, pos, u, how, hs, line, rfl⟩ := exists_line h
  refine ⟨line.hostSide.trans (u.leave_hostSide how), fun a ha => ?_⟩
  obtain ⟨hrx, hpkt, href⟩ := inTx_disjoint ha
  rw [State.leave_mem]
  exact line.stores.read (by cases i <;> simp [storedOffset, hrx, hpkt, href])

/-- Settles O58: by the registers and offsets that the commands write, and by what the ways out of a line add. -/
theorem eachRegisterHasOnlyItsWriters : Obligations.EachRegisterHasOnlyItsWriters := by
  intro i s t h
  obtain ⟨w, pos, u, how, hs, line, rfl⟩ := exists_line h
  have hw : u = s.writtenBy i u := line.writes
  simp only [State.leave_rxHdr, State.leave_dbgCount, State.leave_pktCount, State.leave_hsAttempts,
    State.leave_retryCount, State.leave_flip, State.leave_mem]
  refine ⟨?received, ?packets, ?reference, ?retries, ?flip, ?session, ?reassembly, ?fatal,
    fun hgoes => line.result.trans (u.leave_result how hgoes)⟩
  case received =>
    rintro ⟨hconsume, hrequest⟩
    have hbytes (a : Nat) (ha : inRx a = true) : storedOffset i a = false := by
      obtain ⟨hpkt, href⟩ := inRx_disjoint ha
      cases i with
      | consume eot => exact absurd rfl (hconsume eot)
      | request arg eot => exact absurd rfl (hrequest arg eot)
      | _ => simp [storedOffset, hpkt, href]
    refine ⟨?_, ?_, fun a ha => line.stores.read (hbytes a ha)⟩
    all_goals
      rw [hw]
      cases i with
      | consume eot => exact absurd rfl (hconsume eot)
      | request arg eot => exact absurd rfl (hrequest arg eot)
      | _ => rfl
  case packets =>
    intro hi
    have hbytes (a : Nat) (ha : inPkt a = true) : storedOffset i a = false := by
      obtain ⟨hrx, href⟩ := inPkt_disjoint ha
      obtain ⟨eot, rfl⟩ | rfl | ⟨arg, rfl⟩ | rfl := hi <;> simp [storedOffset, hrx]
    refine ⟨?_, fun a ha => line.stores.read (hbytes a ha)⟩
    rw [hw]
    obtain ⟨eot, rfl⟩ | rfl | ⟨arg, rfl⟩ | rfl := hi <;> rfl
  case reference =>
    intro hi
    have hbytes (a : Nat) (ha : inRef a = true) : storedOffset i a = false := by
      obtain ⟨hrx, hpkt⟩ := inRef_disjoint ha
      cases i with
      | connect => exact absurd rfl hi
      | _ => simp [storedOffset, hrx, hpkt]
    refine ⟨?_, fun a ha => line.stores.read (hbytes a ha)⟩
    rw [hw]
    cases i with
    | connect => exact absurd rfl hi
    | _ => rfl
  case retries =>
    intro hi
    rw [hw]
    cases i with
    | request arg eot => exact absurd rfl (hi arg eot)
    | _ => rfl
  case flip =>
    intro hi
    rw [hw]
    obtain rfl | ⟨eot, rfl⟩ | rfl := hi <;> rfl
  case session =>
    intro hconnect hdisconnect hnot
    obtain ⟨hhs, hconnected, -⟩ := u.leave_session how hnot
    rw [hhs, hconnected, hw]
    cases i with
    | connect => exact absurd rfl hconnect
    | disconnect => exact absurd rfl hdisconnect
    | _ => exact ⟨rfl, rfl⟩
  case reassembly =>
    rintro ⟨hconsume, hrequest, hdisconnect⟩ hnot
    obtain ⟨-, -, hrx⟩ := u.leave_session how hnot
    rw [hrx, hw]
    cases i with
    | consume eot => exact absurd rfl (hconsume eot)
    | request arg eot => exact absurd rfl (hrequest arg eot)
    | disconnect => exact absurd rfl hdisconnect
    | _ => rfl
  case fatal =>
    rintro ⟨hconsume, hrequest, hsendOnly⟩
    cases i with
    | consume eot => exact absurd rfl (hconsume eot)
    | request arg eot => exact absurd rfl (hrequest arg eot)
    | sendOnly eot => exact absurd rfl (hsendOnly eot)
    | encode => exact exec_encode_fatal h
    | advance => exact exec_advance_fatal h
    | resetFlip => exact exec_resetFlip_fatal h
    | connect => exact exec_connect_fatal h
    | disconnect => exact exec_disconnect_fatal h

/-! ## The event of a line -/

/-- The event of a Transport call in progress, with the Transport's answer (20_memory.md R75). -/
def State.callEvent (s : State) : Call → Event
  | .send b => .send b (some s.sendAnswer)
  | .recv t => .recv t (some s.recvAnswer)

/-- What a line that leads from `s` to `u` may record: no event or one, and of a call in progress that call's. -/
inductive Records (s u : State) : Prop
  | nothing (hcall : s.pendingCall = none) (h : u.trace = s.trace)
  | event (hcall : s.pendingCall = none) (e : Event) (h : u.trace = s.trace ++ [e])
  | call {c : Call} (hcall : s.pendingCall = some c) (h : u.trace = s.trace ++ [s.callEvent c])

section Records

variable {s u : State} {w : Word} {pos : Pos}

theorem FailedCall.records {cause : FatalCause} {after : State} (h : FailedCall s pos cause after)
    (hs : s.seq = .running w pos) (hu : u.trace = after.trace) : Records s u := by
  cases h with
  | send j => exact .call (c := .send (s.packet j)) (by rw [State.pendingCall, hs]) hu
  | recv hpos =>
    obtain rfl | rfl := hpos
    all_goals exact .call (c := .recv s.readTimeout) (by rw [State.pendingCall, hs]) hu

theorem Checks.records {next : Pos} {scope : CancelScope} {how : Leave} (h : Checks s next scope u how)
    (hcall : s.pendingCall = none) : Records s u := by
  cases h <;> exact .nothing hcall rfl

theorem ReassembleLine.records {how : Leave} (h : ReassembleLine s pos u how) (hs : s.seq = .running w pos) :
    Records s u := by
  cases h with
  | rxCheck h => exact h.records (by rw [State.pendingCall, hs])
  | rejected | accepted => exact .call (by rw [State.pendingCall, hs]) rfl
  | noMessage h => exact h.records hs rfl
  | failed h => exact h.records hs rfl
  | debugMessage => exact .event (by rw [State.pendingCall, hs]) _ rfl
  | _ => exact .nothing (by rw [State.pendingCall, hs]) rfl

theorem TransmitLine.records {how : Leave} (h : TransmitLine s pos u how) (hs : s.seq = .running w pos) :
    Records s u := by
  cases h with
  | next _ h => exact h.records (by rw [State.pendingCall, hs])
  | settleCheck h => exact h.records (by rw [State.pendingCall, hs])
  | sent | lost => exact .call (by rw [State.pendingCall, hs]) rfl
  | failed h => exact h.records hs rfl
  | settling => exact .event (by rw [State.pendingCall, hs]) _ rfl
  | done => exact .nothing (by rw [State.pendingCall, hs]) rfl

theorem ConnectStores.records {next : Pos} {f : State → State} (h : ConnectStores pos f next)
    (hs : s.seq = .running w pos) : Records s (f s) := by
  cases h with
  | markerBackingOff | markerSettling | probeSettling => exact .event (by rw [State.pendingCall, hs]) _ rfl
  | _ => exact .nothing (by rw [State.pendingCall, hs]) rfl

theorem Line.records {i : Instr} {how : Leave} (h : Line s i pos u how) (hs : s.seq = .running w pos) :
    Records s u := by
  cases h with
  | reassemble _ h => exact h.records hs
  | transmit _ h => exact h.records hs
  | connectStores h => exact h.records hs
  | connectChecks h hcheck => exact hcheck.records (by cases h <;> rw [State.pendingCall, hs])
  | ackCheck h => exact h.records (by rw [State.pendingCall, hs])
  | backoffCheck h => exact h.records (by rw [State.pendingCall, hs])
  | ackFailed h => exact h.records hs rfl
  | probeTooLarge hpos =>
    refine .nothing ?_ rfl
    obtain rfl | rfl := hpos <;> rw [State.pendingCall, hs]
  | echoMatched aux | echoDrained aux | echoAborted aux =>
    exact .call (c := .recv s.hsTimeout) (by cases aux <;> (rw [State.pendingCall, hs]; rfl)) rfl
  | ackReceived | ackMissing | markerSent | markerLost | markersLost | probeSent | probeLost =>
    exact .call (by rw [State.pendingCall, hs]) rfl
  | backedOff | disposed | transportReset => exact .event (by rw [State.pendingCall, hs]) _ rfl
  | _ => exact .nothing (by rw [State.pendingCall, hs]) rfl

end Records

/-- Settles O59: the line's own event, and none of its way out. -/
theorem atMostOneEventAStep : Obligations.AtMostOneEventAStep := by
  intro i s t h
  obtain ⟨w, pos, u, how, hs, line, rfl⟩ := exists_line h
  rw [State.leave_trace]
  cases line.records hs with
  | nothing hcall h =>
    rw [hcall]
    exact ⟨⟨[], by rw [h, List.append_nil], by decide⟩, nofun, nofun⟩
  | event hcall e h =>
    rw [hcall]
    exact ⟨⟨[e], h, le_refl 1⟩, nofun, nofun⟩
  | call hcall h =>
    rw [hcall]
    refine ⟨⟨_, h, le_refl 1⟩, ?_, ?_⟩
    · rintro b ⟨⟩
      exact h
    · rintro x ⟨⟩
      exact h

end Sys2Proof.Machine

/-! SUPPORT. What one host write and one step can do (20_memory.md R61, R66, R68), and the obligations about a step that
need no invariant of the positions. -/

namespace Sys2Proof.Machine

/-! ## Host writes -/

/-- `s` with the configuration registers of `c` (20_memory.md R66). -/
def State.withConfig (s c : State) : State :=
  { s with
    ackEn := c.ackEn, strict := c.strict, ieDone := c.ieDone, ieFatal := c.ieFatal, txHdr := c.txHdr
    retryLimit := c.retryLimit, readTimeout := c.readTimeout, hsTimeout := c.hsTimeout, settle := c.settle }

/-- What a permitted host write can do to `s`. -/
inductive HostWrites (s : State) : State → Prop
  | ignored : HostWrites s s
  | refused (h : s.locked = true) : HostWrites s s.overrun
  | status (v : Word) : HostWrites s (s.writeStatus v)
  | abort (v : Word) : HostWrites s (s.writeAbort v)
  | configured (h : s.locked = false) (c : State) : HostWrites s (s.withConfig c)
  | accepted (h : s.locked = false) (w : Word) : HostWrites s (s.accept w)
  | stored (h : s.locked = false) {m : Memory} (hm : Stores inTx s.mem m) : HostWrites s { s with mem := m }

theorem State.configure_writes {s : State} {f : State → State} (h : s.locked = false → HostWrites s (f s)) :
    HostWrites s (s.configure f) := by
  cases hl : s.locked with
  | true =>
    rw [State.configure_of_locked hl]
    exact .refused hl
  | false =>
    rw [State.configure_of_not hl]
    exact h hl

theorem State.configure_config_writes {s : State} {f : State → State} (h : f s = s.withConfig (f s)) :
    HostWrites s (s.configure f) :=
  State.configure_writes fun hl => h ▸ .configured hl (f s)

theorem State.writeReg_writes (r : Reg) (v : Word) (s : State) : HostWrites s (s.writeReg r v) := by
  cases r with
  | ctrl | txHdr | retryLimit | readTimeout | hsTimeout | settle =>
    unfold State.writeReg
    exact State.configure_config_writes rfl
  | status => exact .status v
  | abort => exact .abort v
  | cmd => exact State.configure_writes fun h => .accepted h v
  | id | result | rxHdr | pktInfo | retryCount | backoff | dbgCount | hsAttempts => exact .ignored

/-- TX_DATA begins and ends at multiples of 4, so an aligned access that begins in it lies in it. -/
theorem inTx_of_aligned {width : Width} {a b : Nat} (hin : inTx a = true) (haligned : a % Width.bytes width = 0)
    (hlow : a ≤ b) (hhigh : b < a + Width.bytes width) : inTx b = true := by
  rw [inTx_iff] at hin ⊢
  cases width <;> simp only [Width.bytes] at haligned hhigh <;> omega

theorem State.setTxData_stores {width : Width} {a : Nat} (hin : inTx a = true) (haligned : a % Width.bytes width = 0)
    (v : Word) (s : State) : Stores inTx s.mem (s.setTxData width a v).mem := by
  refine .range fun b hlow hhigh => inTx_of_aligned hin haligned hlow ?_
  rwa [length_leBytes] at hhigh

theorem hostWrite_writes {width : Width} {off : Offset} (h : permitted width off = true) (v : Word) (s : State) :
    HostWrites s (s.hostWrite width off v) := by
  obtain ⟨haligned, -⟩ := (permitted_iff width off).mp h
  by_cases hlt : off.toNat < 0x400
  · rw [hostWrite_of_lt hlt]
    split
    next r _ => exact s.writeReg_writes r v
    next => exact .ignored
  · rw [hostWrite_of_le (Nat.le_of_not_lt hlt)]
    split_ifs with hin
    · exact State.configure_writes fun hl => .stored hl (s.setTxData_stores hin haligned v)
    · exact .ignored

/-! ## Steps -/

/-- What one step can do to `s`, by whose turn it is. -/
inductive Steps (s : State) : State → Prop
  | idle (hturn : s.nextTurn = .sequencer) (hs : s.seq = .idle) : Steps s s.takeTurn
  | line {w : Word} {pos : Pos} {i : Instr} {t : State} (hturn : s.nextTurn = .sequencer) (hs : s.seq = .running w pos)
      (hd : decode w = .ok i) (h : exec i s.takeTurn = .next t) : Steps s t
  | illegal {w : Word} {pos : Pos} {e : DecodeError} (hs : s.seq = .running w pos) (hd : decode w = .error e) :
      Steps s (s.takeTurn.finish .illegalCommand .none)
  | read (width : Width) (off : Offset) (v : Word) : Steps s (s.takeTurn.noteRead width off v)
  | write {t : State} (h : HostWrites s.takeTurn t) : Steps s t
  | reset (hturn : s.nextTurn = .reset) : Steps s s.takeTurn.platformReset

theorem hostAccess_steps {p : Config.Params} {a : HostAccess} {s t : State}
    (h : hostAccess p a s.takeTurn = .next t) : Steps s t := by
  cases a with
  | read width off =>
    cases hp : permitted width off with
    | true => cases (hostAccess_read_of_permitted hp).symm.trans h; exact .read _ _ _
    | false => cases (hostAccess_read_of_not hp).symm.trans h
  | write width off v =>
    cases hp : permitted width off with
    | true => cases (hostAccess_write_of_permitted hp).symm.trans h; exact .write (hostWrite_writes hp _ _)
    | false => cases (hostAccess_write_of_not hp).symm.trans h

theorem sequencerStep_steps {s t : State} (hturn : s.nextTurn = .sequencer) (h : sequencerStep s.takeTurn = .next t) :
    Steps s t := by
  cases hs : s.seq with
  | idle => cases (sequencerStep_of_idle (s := s.takeTurn) hs).symm.trans h; exact .idle hturn hs
  | running w pos =>
    cases hd : decode w with
    | ok i => exact .line hturn hs hd ((sequencerStep_of_decode (s := s.takeTurn) hs hd).symm.trans h)
    | error e =>
      have hstep : sequencerStep s.takeTurn = .next (s.takeTurn.finish .illegalCommand .none) := by
        simp [sequencerStep, hs, hd]
      cases hstep.symm.trans h
      exact .illegal hs hd

theorem step_steps {s t : State} (h : step s = .next t) : Steps s t := by
  cases hturn : s.nextTurn with
  | sequencer => exact sequencerStep_steps hturn ((step_of_sequencer hturn).symm.trans h)
  | host a => exact hostAccess_steps ((step_of_host hturn).symm.trans h)
  | reset => cases (step_of_reset hturn).symm.trans h; exact .reset hturn

/-! ## The fatal state -/

/-- R288: while the block is idle and fatal a host write reaches OVR and the W1C bits alone. -/
theorem HostWrites.of_fatal {s t : State} (h : HostWrites s t) (hfatal : s.fatal = true) (hs : s.seq = .idle) :
    t = { s with done := t.done, ovr := t.ovr } ∧ (t.done = true → s.done = true) := by
  have hlocked : s.locked = true := (s.locked_iff).mpr (.inr hfatal)
  cases h with
  | ignored | refused => exact ⟨rfl, id⟩
  | status v => exact ⟨rfl, fun hdone => ((Bool.and_eq_true _ _).mp hdone).1⟩
  | abort v =>
    have hb : s.busy = false := by rw [State.busy, hs]
    rw [State.writeAbort_of_no_request (by rw [hb, Bool.false_and])]
    exact ⟨rfl, id⟩
  | configured h | accepted h | stored h => cases hlocked.symm.trans h

/-- Settles O52: the sequencer is idle, a read is only noted, and `HostWrites.of_fatal` speaks of the writes. -/
theorem fatalStateIsSticky : Obligations.FatalStateIsSticky := by
  intro s t hfatal hidle hnot h
  cases step_steps h with
  | idle | read => exact ⟨rfl, id⟩
  | line _ hs | illegal hs => cases hidle.symm.trans hs
  | write h =>
    obtain ⟨ht, hdone⟩ := h.of_fatal hfatal hidle
    refine ⟨?_, hdone⟩
    rw [ht]
    rfl
  | reset hturn => exact absurd hturn hnot

/-! ## What stops the machine -/

/-- A host access answers a next state, or is a bus error. -/
theorem hostAccess_answers (a : HostAccess) (s : State) :
    (∃ t, hostAccess Config.params a s = .next t) ∨
      (hostAccess Config.params a s = .fault .busError ∧ ∃ width off,
        (a = .read width off ∨ ∃ v, a = .write width off v) ∧ permitted width off = false) := by
  cases a with
  | read width off =>
    cases hp : permitted width off with
    | true => exact .inl ⟨_, hostAccess_read_of_permitted hp⟩
    | false => exact .inr ⟨hostAccess_read_of_not hp, width, off, .inl rfl, hp⟩
  | write width off v =>
    cases hp : permitted width off with
    | true => exact .inl ⟨_, hostAccess_write_of_permitted hp⟩
    | false => exact .inr ⟨hostAccess_write_of_not hp, width, off, .inr ⟨v, rfl⟩, hp⟩

/-- The invariant keeps SEQ at positions that have a line. -/
theorem exists_sequencerStep {s : State} (hinv : s.Inv) : ∃ t, sequencerStep s.takeTurn = .next t := by
  cases hs : s.seq with
  | idle => exact ⟨_, sequencerStep_of_idle hs⟩
  | running w pos =>
    obtain ⟨i, hd, hat⟩ := hinv.seq_legal w pos hs
    rw [sequencerStep_of_decode (s := s.takeTurn) hs hd]
    exact exists_exec hs hat.own

/-- Settles O56: by whose turn it is. -/
theorem onlyABusErrorStopsTheMachine : Obligations.OnlyABusErrorStopsTheMachine := by
  intro s hinv
  cases hturn : s.nextTurn with
  | sequencer =>
    rw [step_of_sequencer hturn]
    exact .inl (exists_sequencerStep hinv)
  | host a =>
    rw [step_of_host hturn]
    obtain hnext | ⟨hfault, width, off, ha, hp⟩ := hostAccess_answers a s.takeTurn
    · exact .inl hnext
    · refine .inr ⟨hfault, width, off, ha.imp (congrArg _) ?_, hp⟩
      rintro ⟨v, rfl⟩
      exact ⟨v, rfl⟩
  | reset => exact .inl ⟨_, step_of_reset hturn⟩

/-! ## The session -/

/-- CONNECTED is stored by the last handshake line and by DISCONNECT alone (44_handshake.md R253, R260). -/
theorem Line.connected {s u : State} {i : Instr} {pos : Pos} {how : Leave} (h : Line s i pos u how) :
    u.connected = s.connected ∨ (i = .connect ∧ pos = .enterConnected ∧ u.connected = true) ∨
      (i = .disconnect ∧ pos = .leaveConnected ∧ u.connected = false) := by
  cases h with
  | reassemble hi h => rw [h.writes]; exact .inl rfl
  | transmit hi h => rw [h.writes]; exact .inl rfl
  | ackCheck h => cases h <;> exact .inl rfl
  | backoffCheck h => cases h <;> exact .inl rfl
  | ackFailed h => cases h; exact .inl rfl
  | connectStores h =>
    cases h with
    | enterConnected => exact .inr (.inl ⟨rfl, rfl, rfl⟩)
    | _ => exact .inl rfl
  | connectChecks _ h => cases h <;> exact .inl rfl
  | leaveConnected => exact .inr (.inr ⟨rfl, rfl, rfl⟩)
  | _ => exact .inl rfl

theorem HostWrites.connected {s t : State} (h : HostWrites s t) : t.connected = s.connected := by
  cases h with
  | accepted _ w =>
    cases hd : decode w with
    | ok i => rw [State.accept_of_ok hd]
    | error e => rw [State.accept_of_error hd]
  | _ => rfl

theorem State.leave_connected (how : Leave) (u : State) :
    (u.leave how).connected = u.connected ∨ ((u.leave how).fatal = true ∧ (u.leave how).connected = false) := by
  cases how with
  | goto | finish => exact .inl rfl
  | fatal => exact .inr ⟨rfl, rfl⟩

/-- Settles O60: by the line that stores CONNECTED, fatal entry after a line, and the reset. -/
theorem connectedChangesOnlyInItsRules : Obligations.ConnectedChangesOnlyInItsRules := by
  intro s t _ h
  have unchanged (heq : t.connected = s.connected) {p q : Prop} :
      (s.connected = false → t.connected = true → p) ∧ (s.connected = true → t.connected = false → q) := by
    rw [heq]
    exact ⟨fun h₀ h₁ => (by cases h₀.symm.trans h₁), fun h₁ h₀ => by cases h₁.symm.trans h₀⟩
  cases step_steps h with
  | idle | illegal | read => exact unchanged rfl
  | write h => exact unchanged h.connected
  | reset hturn => exact ⟨nofun, fun _ _ => .inl hturn⟩
  | line hturn hs hd h =>
    obtain ⟨u, how, line, rfl⟩ := exec_line (s := s.takeTurn) hs h
    obtain hleave | ⟨hfatal, hconnected⟩ := u.leave_connected how
    · obtain heq | ⟨rfl, rfl, hu⟩ | ⟨rfl, rfl, hu⟩ := line.connected
      · exact unchanged (hleave.trans heq)
      · exact ⟨fun _ _ => ⟨_, hd, hs⟩, fun _ h₀ => by cases (hleave.trans hu).symm.trans h₀⟩
      · exact ⟨fun _ h₁ => (by cases (hleave.trans hu).symm.trans h₁), fun _ _ => .inr (.inr ⟨_, hd, hs⟩)⟩
    · exact ⟨fun _ h₁ => (by cases hconnected.symm.trans h₁), fun _ _ => .inr (.inl hfatal)⟩

end Sys2Proof.Machine

/-! SUPPORT. The invariant: what a host write, a reset and the ways out of a line keep of it, and the bounds that the lines
keep. -/

namespace Sys2Proof.Machine

/-! ## The parts of the invariant -/

/-- The registers and scratch that `State.AtPos` speaks of. -/
def State.seen (s : State) : HsState × Bool × Word × BitVec 5 × BitVec 4 × RxState × Scratch :=
  (s.hsState, s.connected, s.txHdr, s.pktCount, s.hsAttempts, s.rxState, s.scratch)

theorem State.AtPos.congr {s t : State} {i : Instr} {pos : Pos} (h : s.AtPos i pos) (hseen : t.seen = s.seen) :
    t.AtPos i pos := by
  simp only [State.seen, Prod.mk.injEq] at hseen
  obtain ⟨hhs, hconnected, htx, hpkt, hattempts, hrx, hsc⟩ := hseen
  have hlength : t.txLength = s.txLength := by rw [State.txLength, htx, State.txLength]
  refine ⟨h.own, fun x hx => hhs.trans (h.hs x hx), fun c hc => hconnected.trans (h.session c hc), fun hi hp => ?_, ?_⟩
  · rw [hlength]
    exact h.probe hi hp
  · have hregisters := h.registers
    unfold State.registersAt at hregisters ⊢
    rwa [hpkt, hattempts, hrx, hsc]

theorem State.Inv.seq_legal_congr {s t : State} (h : s.Inv) (hseq : t.seq = s.seq) (hseen : t.seen = s.seen) :
    ∀ w pos, t.seq = .running w pos → ∃ i, decode w = .ok i ∧ t.AtPos i pos := by
  intro w pos hs
  obtain ⟨i, hd, hat⟩ := h.seq_legal w pos (hseq.symm.trans hs)
  exact ⟨i, hd, hat.congr hseen⟩

theorem seq_legal_of_idle {s : State} (h : s.seq = .idle) :
    ∀ w pos, s.seq = .running w pos → ∃ i, decode w = .ok i ∧ s.AtPos i pos :=
  fun _ _ hs => by cases h.symm.trans hs

theorem Stores.memory_in {allowed : Nat → Bool} {m m' : Memory} (h : Stores allowed m m')
    (hallowed : ∀ a, allowed a = true → inBuffer a = true) (hm : ∀ c ∈ m, inBuffer c.1 = true) :
    ∀ c ∈ m', inBuffer c.1 = true :=
  h.forall_mem (p := fun a => inBuffer a = true) hallowed hm

theorem inBuffer_of_storedOffset {i : Instr} {a : Nat} (h : storedOffset i a = true) : inBuffer a = true := by
  by_contra hout
  simp only [inBuffer, Bool.or_eq_true, not_or, Bool.not_eq_true] at hout
  obtain ⟨⟨⟨-, hrx⟩, hpkt⟩, href⟩ := hout
  cases i <;> simp [storedOffset, hrx, hpkt, href] at h

/-! ## Turns, host accesses and resets -/

theorem State.platformReset_inv (s : State) : s.platformReset.Inv where
  memory_wf := State.reset_mem_wf
  memory_in := nofun
  connected_iff := ⟨nofun, nofun⟩
  done_idle := nofun
  fatal_idle := nofun
  fatal_disconnected := nofun
  cause_iff := ⟨fun h => absurd rfl h, nofun⟩
  cancel_busy := nofun
  pktCount_le := Nat.zero_le _
  attempts_le := Nat.zero_le _
  scratch_bounded := Scratch.reset_bounded
  seq_legal := nofun

/-- Settles O54: the reset state is the one the platform's reset leaves of itself. -/
theorem invariantHoldsAtReset : Obligations.InvariantHoldsAtReset := State.reset.platformReset_inv

theorem State.takeTurn_inv {s : State} (h : s.Inv) : s.takeTurn.Inv := { h with seq_legal := h.seq_legal_congr rfl rfl }

theorem State.noteRead_inv {s : State} (h : s.Inv) (width : Width) (off : Offset) (v : Word) :
    (s.noteRead width off v).Inv := { h with seq_legal := h.seq_legal_congr rfl rfl }

theorem State.of_not_locked {s : State} (h : s.locked = false) : s.seq = .idle ∧ s.fatal = false := by
  obtain ⟨hbusy, hfatal⟩ := (Bool.or_eq_false_iff).mp h
  refine ⟨?_, hfatal⟩
  cases hs : s.seq with
  | idle => rfl
  | running => rw [State.busy, hs] at hbusy; cases hbusy

theorem State.accept_inv {s : State} (h : s.Inv) (hlocked : s.locked = false) (w : Word) : (s.accept w).Inv := by
  obtain ⟨-, hfatal⟩ := State.of_not_locked hlocked
  have hnot : ∀ {p : Prop}, s.fatal = true → p := fun hf => by cases hfatal.symm.trans hf
  cases hd : decode w with
  | ok i =>
    rw [State.accept_of_ok hd]
    refine { h with done_idle := nofun, fatal_idle := hnot, cancel_busy := nofun, seq_legal := ?_ }
    rintro _ _ ⟨⟩
    exact ⟨i, hd, by cases i <;> rfl, nofun, by cases i <;> nofun, nofun, trivial⟩
  | error e =>
    rw [State.accept_of_error hd]
    exact { h with
      done_idle := fun _ => rfl, fatal_idle := hnot, cause_iff := ⟨fun hc => absurd rfl hc, hnot⟩
      cancel_busy := nofun, seq_legal := nofun }

theorem HostWrites.inv {s t : State} (h : HostWrites s t) (hs : s.Inv) : t.Inv := by
  cases h with
  | ignored => exact hs
  | refused => exact { hs with seq_legal := hs.seq_legal_congr rfl rfl }
  | status v =>
    exact { hs with
      done_idle := fun hdone => hs.done_idle ((Bool.and_eq_true _ _).mp hdone).1
      seq_legal := hs.seq_legal_congr rfl rfl }
  | abort v =>
    refine { hs with cancel_busy := fun hcancel => ?_, seq_legal := hs.seq_legal_congr rfl rfl }
    obtain hcancel | hbusy := (Bool.or_eq_true _ _).mp hcancel
    · exact hs.cancel_busy hcancel
    · exact ((Bool.and_eq_true _ _).mp hbusy).1
  | configured h c =>
    obtain ⟨hidle, -⟩ := State.of_not_locked h
    exact { hs with seq_legal := seq_legal_of_idle hidle }
  | accepted h w => exact State.accept_inv hs h w
  | stored h hm =>
    obtain ⟨hidle, -⟩ := State.of_not_locked h
    exact { hs with
      memory_wf := hm.wf hs.memory_wf
      memory_in := hm.memory_in (fun a ha => by simp [inBuffer, ha]) hs.memory_in
      seq_legal := seq_legal_of_idle hidle }

/-! ## The lines of a command -/

/-- What the invariant says of a state in which a command runs, but for SEQ's position. -/
structure State.Sound (s : State) : Prop where
  memory_wf : Memory.wf s.mem
  memory_in : ∀ c ∈ s.mem, inBuffer c.1 = true
  connected_iff : s.connected = true ↔ s.hsState = .connected
  done : s.done = false
  fatal : s.fatal = false
  cause : s.fatalCause = .none
  pktCount_le : s.pktCount.toNat ≤ Config.pktMax
  attempts_le : s.hsAttempts.toNat ≤ Config.markerAttempts
  scratch_bounded : s.scratch.Bounded

theorem State.Inv.sound {s : State} {w : Word} {pos : Pos} (h : s.Inv) (hs : s.seq = .running w pos) : s.Sound := by
  have hfatal : s.fatal = false := by
    rw [← Bool.not_eq_true]
    exact fun hf => by cases hs.symm.trans (h.fatal_idle hf)
  exact { h with
    done := by
      rw [← Bool.not_eq_true]
      exact fun hd => by cases hs.symm.trans (h.done_idle hd)
    fatal := hfatal
    cause := by
      by_contra hc
      cases hfatal.symm.trans (h.cause_iff.mp hc) }

section Leave

variable {u : State} (h : u.Sound)
include h

theorem State.Sound.goto {w : Word} {pos next : Pos} {i : Instr} (hseq : u.seq = .running w pos) (hd : decode w = .ok i)
    (hat : u.AtPos i next) : (u.goto next).Inv := by
  have hgoto : (u.goto next).seq = .running w next := by rw [State.goto_of_running hseq]
  exact { h with
    done_idle := fun hdone => by cases h.done.symm.trans hdone
    fatal_idle := fun hfatal => by cases h.fatal.symm.trans hfatal
    fatal_disconnected := fun hfatal => by cases h.fatal.symm.trans hfatal
    cause_iff := ⟨fun hc => absurd h.cause hc, fun hfatal => by cases h.fatal.symm.trans hfatal⟩
    cancel_busy := fun _ => by rw [State.busy, hgoto]
    seq_legal := fun w' pos' hs => by
      cases hgoto.symm.trans hs
      exact ⟨i, hd, hat.congr rfl⟩ }

theorem State.Sound.finish (err : ErrCode) (outcome : Reply) : (u.finish err outcome).Inv :=
  { h with
    done_idle := fun _ => rfl
    fatal_idle := fun _ => rfl
    fatal_disconnected := fun hfatal => by cases h.fatal.symm.trans hfatal
    cause_iff := ⟨fun hc => absurd rfl hc, fun hfatal => by cases h.fatal.symm.trans hfatal⟩
    cancel_busy := nofun
    seq_legal := nofun }

theorem State.Sound.raiseFatal {cause : FatalCause} (hcause : cause ≠ .none) : (u.raiseFatal cause).Inv :=
  { h with
    connected_iff := ⟨nofun, nofun⟩
    done_idle := fun _ => rfl
    fatal_idle := fun _ => rfl
    fatal_disconnected := fun _ => rfl
    cause_iff := ⟨fun _ => rfl, fun _ => hcause⟩
    cancel_busy := nofun
    seq_legal := nofun }

end Leave

/-! ### What the lines keep -/

section Keeps

variable {s u : State} {i : Instr} {pos : Pos} {how : Leave}

theorem Line.fatal_eq (h : Line s i pos u how) : u.fatal = s.fatal := by
  rw [h.writes]
  cases i <;> rfl

theorem ReassembleLine.scratch_bounded (h : ReassembleLine s pos u how) (hsc : s.scratch.Bounded) :
    u.scratch.Bounded := by
  cases h with
  | streamStart => exact ⟨by simp [State.streamOpened], Nat.zero_le _, Nat.zero_le _, Nat.zero_le _⟩
  | rxCheck h => cases h <;> exact hsc
  | accepted _ hrx => exact Scratch.bounded_of_rxPacket hsc hrx
  | noMessage h => cases h; exact hsc
  | failed h => cases h; exact hsc
  | _ => exact hsc

/-- R34: a stored stream has at most 16 packets. -/
theorem State.storePkt_pktCount_le (s : State) {ps : List Bytes} (h : ps.length ≤ 16) :
    (s.storePkt ps).pktCount.toNat ≤ Config.pktMax := by
  show ps.length % 32 ≤ 16
  omega

theorem State.length_le_of_txStream {s : State} {ack : Bool} {ps : List Bytes} (h : s.txStream ack = some ps) :
    ps.length ≤ 16 := by
  obtain ⟨-, -, hle, -⟩ := encodeStream_length h
  exact hle

theorem Line.pktCount_le (h : Line s i pos u how) (hle : s.pktCount.toNat ≤ Config.pktMax) :
    u.pktCount.toNat ≤ Config.pktMax := by
  cases h with
  | reassemble _ h => rw [h.writes]; exact hle
  | transmit _ h => rw [h.writes]; exact hle
  | encodeStored h => exact s.storePkt_pktCount_le (State.length_le_of_txStream h)
  | requestStored _ h => exact State.storePkt_pktCount_le _ (State.length_le_of_txStream h)
  | sendOnlyStored _ h => exact s.storePkt_pktCount_le (State.length_le_of_txStream h)
  | probeStored h =>
    exact s.storePkt_pktCount_le ((List.length_take_le' _ _).trans (State.length_le_of_txStream h))
  | ackCheck h => cases h <;> exact hle
  | backoffCheck h => cases h <;> exact hle
  | ackFailed h => cases h; exact hle
  | connectStores h => cases h <;> exact hle
  | connectChecks _ h => cases h <;> exact hle
  | _ => exact hle

/-- R42: CONNECT counts an attempt only below the bound. -/
theorem Line.attempts_le (h : Line s i pos u how) (hat : s.registersAt pos)
    (hle : s.hsAttempts.toNat ≤ Config.markerAttempts) : u.hsAttempts.toNat ≤ Config.markerAttempts := by
  cases h with
  | reassemble _ h => rw [h.writes]; exact hle
  | transmit _ h => rw [h.writes]; exact hle
  | ackCheck h => cases h <;> exact hle
  | backoffCheck h => cases h <;> exact hle
  | ackFailed h => cases h; exact hle
  | connectStarted => exact Nat.zero_le _
  | connectStores h =>
    cases h with
    | markerCount =>
      have hlt : s.hsAttempts.toNat < 10 := hat
      show (s.hsAttempts + 1).toNat ≤ 10
      rw [BitVec.toNat_add]
      exact (Nat.mod_le _ _).trans hlt
    | _ => exact hle
  | connectChecks _ h => cases h <;> exact hle
  | _ => exact hle

theorem Line.scratch_bounded (h : Line s i pos u how) (hsc : s.scratch.Bounded) : u.scratch.Bounded := by
  cases h with
  | reassemble _ h => exact h.scratch_bounded hsc
  | transmit _ h => rw [h.writes]; exact hsc
  | consumeStarted => exact ReassembleLine.streamStart.scratch_bounded hsc
  | ackCheck h => cases h <;> exact hsc
  | backoffCheck h => cases h <;> exact hsc
  | ackFailed h => cases h; exact hsc
  | connectStores h => cases h <;> exact hsc
  | connectChecks _ h => cases h <;> exact hsc
  | _ => exact hsc

end Keeps

end Sys2Proof.Machine

/-! SUPPORT. The positions: a line leads from a position whose facts hold to one whose facts hold (10_state.md R47), and
the obligation about the whole invariant. -/

namespace Sys2Proof.Machine

/-! ### The positions of the handshake -/

theorem handshakePos_of_hsStateAt {pos : Pos} {x : HsState} (h : hsStateAt pos = some x) : handshakePos pos = true := by
  cases pos with
  | start | finishing | streamStart | rxCheck | receiving | streamComplete | validate | debugCount | reassembled | advance
  | clearRetries | transmit | sending | settleCheck | settling | transmitted | ackCheck | ackReceiving | busy
  | backoffCheck | backingOff | countRetry | transportReset | leaveConnected | clearRxState => cases h
  | _ => rfl

theorem connect_of_handshakePos {i : Instr} {pos : Pos} (hown : ownPos i pos = true) (h : handshakePos pos = true) :
    i = .connect := by
  cases i with
  | connect => rfl
  | _ =>
    cases pos with
    | start | finishing | streamStart | rxCheck | receiving | streamComplete | validate | debugCount | reassembled | advance
    | clearRetries | transmit | sending | settleCheck | settling | transmitted | ackCheck | ackReceiving | busy
    | backoffCheck | backingOff | countRetry | transportReset | leaveConnected | clearRxState => cases h
    | _ => cases hown

theorem ConnectStores.handshakePos {pos next : Pos} {f : State → State} (h : ConnectStores pos f next) :
    handshakePos pos = true := by
  cases h <;> rfl

theorem ConnectChecks.handshakePos {pos next : Pos} (h : ConnectChecks pos next) : handshakePos pos = true := by
  cases h <;> rfl

/-- CONNECT goes on from a position of the handshake, or from its first line once R241 and R242 are checked. -/
theorem Line.connect_from {s u : State} {pos next : Pos} (h : Line s .connect pos u (.goto next)) :
    handshakePos pos = true ∨ (s.hsState ≠ .connected ∧ s.txLength.toNat ≤ probeMax) := by
  cases h with
  | connectStarted hsession hfits => exact .inr ⟨hsession, hfits⟩
  | reassemble hi | transmit hi => simp at hi
  | connectStores h => exact .inl h.handshakePos
  | connectChecks h => exact .inl h.handshakePos
  | echoMatched aux | echoDrained aux | echoAborted aux => exact .inl (by cases aux <;> rfl)
  | _ => exact .inl rfl

section Position

variable {s u : State} {i : Instr} {pos : Pos} {how : Leave}

theorem State.AtPos.disconnected (hat : s.AtPos .connect pos) (h : handshakePos pos = true) : s.connected = false :=
  hat.session false (by
    cases pos with
    | start => cases h
    | _ => simp [connectedAt, h])

/-! ### The session -/

/-- R25: no line parts CONNECTED from HS_STATE; the handshake's other states are CONNECT's, with CONNECTED 0. -/
theorem Line.connected_iff (h : Line s i pos u how) (hat : s.AtPos i pos)
    (hs : s.connected = true ↔ s.hsState = .connected) : u.connected = true ↔ u.hsState = .connected := by
  have stays {x : HsState} (hi : i = .connect) (hpos : handshakePos pos = true) (hx : x ≠ .connected) :
      s.connected = true ↔ x = .connected := by
    subst hi
    simp [hat.disconnected hpos, hx]
  cases h with
  | reassemble _ h => rw [h.writes]; exact hs
  | transmit _ h => rw [h.writes]; exact hs
  | ackCheck h => cases h <;> exact hs
  | backoffCheck h => cases h <;> exact hs
  | ackFailed h => cases h; exact hs
  | connectStores h =>
    cases h with
    | enterHandshake | enterFlipBitReset | enterProbeSent | enterAuxAck | enterMainAck => exact stays rfl rfl nofun
    | enterConnected => exact ⟨fun _ => rfl, fun _ => rfl⟩
    | _ => exact hs
  | connectChecks h hcheck =>
    cases hcheck with
    | onward => exact hs
    | handshake => exact stays rfl h.handshakePos nofun
  | markersLost | probeLost => exact stays rfl rfl nofun
  | echoAborted aux => exact stays rfl (by cases aux <;> rfl) nofun
  | leaveConnected => exact ⟨nofun, nofun⟩
  | _ => exact hs

theorem Line.sound (h : Line s i pos u how) (hat : s.AtPos i pos) (hs : s.Sound) : u.Sound where
  memory_wf := h.stores.wf hs.memory_wf
  memory_in := h.stores.memory_in (fun _ => inBuffer_of_storedOffset) hs.memory_in
  connected_iff := h.connected_iff hat hs.connected_iff
  done := h.result.done.trans hs.done
  fatal := h.fatal_eq.trans hs.fatal
  cause := h.result.fatalCause.trans hs.cause
  pktCount_le := h.pktCount_le hs.pktCount_le
  attempts_le := h.attempts_le hat.registers hs.attempts_le
  scratch_bounded := h.scratch_bounded hs.scratch_bounded

/-- The commands that need a session (10_state.md R47). -/
inductive NeedsSession : Instr → Prop
  | consume (eot : Bool) : NeedsSession (.consume eot)
  | request (arg eot : Bool) : NeedsSession (.request arg eot)
  | sendOnly (eot : Bool) : NeedsSession (.sendOnly eot)

theorem NeedsSession.connectedAt (h : NeedsSession i) (hpos : pos ≠ .start) : connectedAt i pos = some true := by
  cases pos with
  | start => exact absurd rfl hpos
  | _ => cases h <;> rfl

/-- A command that needs a session goes on past its first line only with one, and keeps it. -/
theorem Line.connected_of_needsSession {next : Pos} (h : Line s i pos u (.goto next)) (hat : s.AtPos i pos)
    (hi : NeedsSession i) : u.connected = true := by
  have hkept : u.connected = s.connected := by
    rw [h.writes]
    cases hi <;> rfl
  rw [hkept]
  by_cases hpos : pos = .start
  · subst hpos
    cases hi with
    | consume =>
      cases h with
      | consumeStarted hconnected => exact hconnected
      | reassemble _ h => cases h
      | transmit _ h => cases h
    | request =>
      cases h with
      | requestStored hconnected => exact hconnected
      | reassemble _ h => cases h
      | transmit _ h => cases h
    | sendOnly =>
      cases h with
      | sendOnlyStored hconnected => exact hconnected
      | reassemble _ h => cases h
      | transmit _ h => cases h
  · exact hat.session true (hi.connectedAt hpos)

/-- CONNECTED stays 0 until the line that leaves the handshake. -/
theorem Line.connect_connected {next : Pos} (h : Line s .connect pos u (.goto next))
    (hnext : handshakePos next = true) : u.connected = s.connected := by
  cases h with
  | reassemble hi | transmit hi => simp at hi
  | connectStores h =>
    cases h with
    | enterConnected => cases hnext
    | _ => rfl
  | connectChecks _ h => cases h <;> rfl
  | _ => rfl

/-- CONNECT goes on within the handshake only without a session, and with a probe that fits (44_handshake.md R241,
R242). -/
theorem Line.connect_handshake {next : Pos} (h : Line s .connect pos u (.goto next)) (hat : s.AtPos .connect pos)
    (hs : s.connected = true ↔ s.hsState = .connected) (hnext : handshakePos next = true) :
    u.connected = false ∧ u.txLength.toNat ≤ probeMax := by
  have hlength : u.txLength = s.txLength := by rw [State.txLength, h.hostSide.txHdr, State.txLength]
  rw [hlength, h.connect_connected hnext]
  obtain hpos | ⟨hsession, hfits⟩ := h.connect_from
  · exact ⟨hat.disconnected hpos, hat.probe rfl hpos⟩
  · rw [← Bool.not_eq_true, hs]
    exact ⟨hsession, hfits⟩

/-- DISCONNECT's positions agree with CONNECTED (44_handshake.md R260). -/
theorem Line.disconnect_session {next : Pos} {c : Bool} (h : Line s .disconnect pos u (.goto next))
    (hat : s.AtPos .disconnect pos) (hc : connectedAt .disconnect next = some c) : u.connected = c := by
  cases h with
  | reassemble hi | transmit hi => simp at hi
  | disposed hconnected => cases hc; exact hconnected
  | transportReset => cases hc; exact hat.session true rfl
  | leaveConnected => cases hc; rfl
  | clearRxState => cases hc

theorem Line.session {next : Pos} {c : Bool} (h : Line s i pos u (.goto next)) (hat : s.AtPos i pos)
    (hs : s.connected = true ↔ s.hsState = .connected) (hc : connectedAt i next = some c) : u.connected = c := by
  have needed (hi : NeedsSession i) (hstart : next ≠ .start) : u.connected = c := by
    cases (hi.connectedAt hstart).symm.trans hc
    exact h.connected_of_needsSession hat hi
  have hstart : next ≠ .start := by
    rintro rfl
    cases i <;> cases hc
  cases i with
  | consume eot => exact needed (.consume eot) hstart
  | request arg eot => exact needed (.request arg eot) hstart
  | sendOnly eot => exact needed (.sendOnly eot) hstart
  | encode | advance | resetFlip => cases next <;> cases hc
  | disconnect => exact h.disconnect_session hat hc
  | connect =>
    cases hnext : handshakePos next with
    | true =>
      have hfalse : connectedAt .connect next = some false := by
        cases next with
        | start => cases hnext
        | _ => simp [connectedAt, hnext]
      cases hfalse.symm.trans hc
      exact (h.connect_handshake hat hs hnext).1
    | false =>
      have hnone : connectedAt .connect next = none := by
        cases next with
        | start => rfl
        | _ => simp [connectedAt, hnext]
      cases hnone.symm.trans hc

/-! ### HS_STATE -/

theorem Line.connect_hsState {next : Pos} {x : HsState} (h : Line s .connect pos u (.goto next))
    (hat : s.AtPos .connect pos) (hx : hsStateAt next = some x) : u.hsState = x := by
  cases h with
  | reassemble hi | transmit hi => simp at hi
  | connectStores h =>
    cases h with
    | enterHandshake | enterFlipBitReset | enterProbeSent | enterAuxAck | enterMainAck => cases hx; rfl
    | enterConnected => cases hx
    | _ => exact hat.hs x hx
  | connectChecks h hcheck =>
    cases hcheck with
    | onward => exact hat.hs x (by cases h <;> exact hx)
    | handshake => cases hx
  | echoMatched aux | echoDrained aux => exact hat.hs x (by cases aux <;> exact hx)
  | connectStarted | markersLost | probeLost | echoAborted => cases hx
  | _ => exact hat.hs x hx

theorem Line.hsState {next : Pos} {x : HsState} (h : Line s i pos u (.goto next)) (hat : s.AtPos i pos)
    (hx : hsStateAt next = some x) : u.hsState = x := by
  obtain rfl := connect_of_handshakePos (h.allowed hat.own) (handshakePos_of_hsStateAt hx)
  exact h.connect_hsState hat hx

/-! ### The other registers -/

/-- After an accepted string the stream has a first packet, and RX_STATE shows it (41_reassembly.md R160 to R162). -/
theorem packetTaken_registersAt {b : Bytes} {sc : Scratch} {complete : Bool} (hat : s.registersAt .receiving)
    (hrx : rxPacket s.strict s.scratch b = .accepted sc complete) :
    (s.packetTaken sc).registersAt (if complete then .streamComplete else .rxCheck) := by
  have hfirst : sc.first = false := by
    obtain ⟨-, -, rfl⟩ := scratch_of_rxPacket_accepted hrx
    split_ifs with hf
    · rfl
    · exact eq_false_of_ne_true hf
  have hstate : (s.packetTaken sc).rxState = .accumulatingContinuation := by
    show (if s.scratch.first then RxState.accumulatingContinuation else s.rxState) = _
    cases hf : s.scratch.first with
    | true => rfl
    | false =>
      have hrxState : s.rxState = if s.scratch.first then .awaitFirstPacket else .accumulatingContinuation := hat
      rw [hrxState, hf]
      rfl
  cases complete with
  | true => exact ⟨hstate, hfirst⟩
  | false =>
    show (s.packetTaken sc).rxState = if sc.first then .awaitFirstPacket else .accumulatingContinuation
    rw [hfirst, hstate]
    rfl

theorem ReassembleLine.registersAt {next : Pos} (h : ReassembleLine s pos u (.goto next)) (hat : s.registersAt pos) :
    u.registersAt next := by
  cases h with
  | streamStart | rejected | noMessage | invalid => rfl
  | streamComplete => exact ⟨rfl, hat.2⟩
  | debugCount => trivial
  | rxCheck h =>
    cases h with
    | onward => exact hat
    | reassembly => trivial
  | accepted _ hrx => exact packetTaken_registersAt hat hrx
  | debugMessage | retry | message => exact hat.1

theorem TransmitLine.registersAt {next : Pos} (h : TransmitLine s pos u (.goto next)) (hat : s.registersAt pos) :
    u.registersAt next := by
  cases h with
  | done => trivial
  | next hlt h => cases h; exact hlt
  | sent => exact hat
  | settleCheck h => cases h; exact hat
  | settling => exact hat

theorem Line.registersAt {next : Pos} (h : Line s i pos u (.goto next)) (hat : s.registersAt pos)
    (hle : s.hsAttempts.toNat ≤ Config.markerAttempts) : u.registersAt next := by
  cases h with
  | reassemble _ h => exact h.registersAt hat
  | transmit _ h => exact h.registersAt hat
  | consumeStarted => exact ReassembleLine.streamStart.registersAt trivial
  | sendOnlyAdvanced | retriesCleared | retryCounted => exact Nat.zero_le _
  | requestTransmitted => split_ifs <;> trivial
  | ackCheck h => cases h; trivial
  | backoffCheck h => cases h; trivial
  | connectStarted => exact Nat.zero_lt_succ _
  | connectStores h =>
    cases h with
    | enterHandshake | markerBackingOff => exact hat
    | _ => trivial
  | connectChecks h hcheck =>
    cases hcheck with
    | handshake => trivial
    | onward =>
      cases h with
      | marker | markerBackoff => exact hat
      | _ => trivial
  | markerLost hnot => exact Nat.lt_of_le_of_ne hle hnot
  | echoMatched aux | echoDrained aux => cases aux <;> trivial
  | _ => trivial

theorem Line.atPos {next : Pos} (h : Line s i pos u (.goto next)) (hat : s.AtPos i pos) (hs : s.Sound) :
    u.AtPos i next where
  own := h.allowed hat.own
  hs _ hx := h.hsState hat hx
  session _ hc := h.session hat hs.connected_iff hc
  probe hi hnext := by
    subst hi
    exact (h.connect_handshake hat hs.connected_iff hnext).2
  registers := h.registersAt hat.registers hs.attempts_le

/-- The next state of a line meets the invariant, whichever way the line leaves its command. -/
theorem Line.inv {w : Word} (h : Line s i pos u how) (hinv : s.Inv) (hseq : s.seq = .running w pos)
    (hd : decode w = .ok i) (hat : s.AtPos i pos) : (u.leave how).Inv := by
  have hs := hinv.sound hseq
  have hu := h.sound hat hs
  cases how with
  | goto next => exact hu.goto (h.seq_eq.trans hseq) hd (h.atPos hat hs)
  | finish err outcome => exact hu.finish err outcome
  | fatal cause =>
    obtain ⟨-, hcause⟩ := h.allowed hat.own
    exact hu.raiseFatal hcause

end Position

/-- Settles O55: a host turn and a reset by the parts of the invariant they touch, a line of a command by `Line.inv`. -/
theorem everyStepKeepsTheInvariant : Obligations.EveryStepKeepsTheInvariant := by
  intro s t hinv h
  have hturn := State.takeTurn_inv hinv
  cases step_steps h with
  | idle => exact hturn
  | read width off v => exact State.noteRead_inv hturn width off v
  | write h => exact h.inv hturn
  | reset => exact s.takeTurn.platformReset_inv
  | illegal hs hd =>
    obtain ⟨i, hd', -⟩ := hinv.seq_legal _ _ hs
    cases hd.symm.trans hd'
  | line _ hs hd h =>
    obtain ⟨i, hd', hat⟩ := hturn.seq_legal _ _ hs
    cases hd.symm.trans hd'
    obtain ⟨u, how, line, rfl⟩ := exec_line (s := s.takeTurn) hs h
    exact line.inv hturn hs hd hat

end Sys2Proof.Machine
